-- ==== Sys2Proof/Word.lean ====
section
/-! DEFINITION. The word types: the 32-bit output word of 20_memory.md R53, and the byte of R55. -/

namespace Sys2Proof

/-- A 32-bit word, the one width the block emits (20_memory.md R53). Bit 0 is the least significant (00_scope.md R10). -/
abbrev Word := BitVec 32

/-- A byte of a word on the serial link (20_memory.md R55). -/
abbrev Byte := BitVec 8

end Sys2Proof
end

