-- ==== Sys2Proof/Config.lean ====
section
/-! DEFINITION. The fixed constants of 00_scope.md R7. The block draws no free value anywhere (decision D41 of
92_eei_decisions.md), so no constant here is opaque. The divider table stands in Machine/Planner.lean, the three bit
values that 93_implementation_defined.md lets a model take as parameters in Machine/Encoder.lean. -/

namespace Sys2Proof.Config

/-- F_MIN, hertz (R7). -/
def fMin : Nat := 35000000

/-- F_MAX, hertz (R7). -/
def fMax : Nat := 4400000000

/-- VCO_MIN, hertz (R7). -/
def vcoMin : Nat := 2200000000

/-- VCO_MAX, hertz, inclusive (R7; 90_conflicts.md C1). -/
def vcoMax : Nat := 4400000000

/-- MOD_MAX (R7). -/
def modMax : Nat := 4095

/-- PRESCALER_THRESHOLD (R7). -/
def prescalerThreshold : Nat := 75

/-- R3_CLKDIV (R7). -/
def r3ClkDiv : Nat := 150

/-- R4_BSCLKDIV (R7). -/
def r4BsClkDiv : Nat := 200

/-- R5_RESERVED, bits 20:19 of R5 (R7). -/
def r5Reserved : Nat := 3

/-- SPACING_DEFAULT, hertz (R7). -/
def spacingDefault : Nat := 10000

/-- The top of the POWER range (R7). -/
def powerMax : Int := 3

/-- The top of the CP range (R7). -/
def cpMax : Int := 15

/-- The Bus Writer's minimum settling after each word, in microseconds (60_exceptions.md R236). -/
def settleMicros : Nat := 5

end Sys2Proof.Config
end

