-- ==== Sys2Proof/Syntax.lean ====
section
/-! DEFINITION. The command frame (30_encoding.md R70) and the instructions: one constructor for every row of
spec/opcode_table.json. The operand fields are those of R73 for a command and those of 41_encoder.md R142 to R147 for
an output word; bits the rules call ignored or fixed are not part of an instruction. -/

namespace Sys2Proof

/-- One command frame: three fields presented together (30_encoding.md R70). -/
structure Frame where
  hdr : BitVec 32
  a   : BitVec 64
  b   : BitVec 64
  deriving DecidableEq, Repr

/-- The rows of spec/opcode_table.json. The first seven are the commands of 30_encoding.md R72; the nine reserved
opcodes follow; `r0` to `r5` are the output word formats of R79, whose meaning is the emission of that word
(notes/assumptions/4.md). -/
inductive Instr where
  /-- CFG_REF: reference in hertz, R-counter operand, doubler flag, divide-by-2 flag (R181). -/
  | cfgRef (ref : BitVec 32) (r : BitVec 10) (dblop div2op : Bool)
  /-- SET_FREQ: target and spacing in hertz; spacing 0 selects the default (R182). -/
  | setFreq (f s : BitVec 64)
  /-- SET_POWER: a two's-complement operand, clamped when performed (R183). -/
  | setPower (v : BitVec 64)
  /-- SET_OUTEN: bit 0 of operand A (R184). -/
  | setOutEn (en : Bool)
  /-- SET_CP: a two's-complement operand, clamped when performed (R185). -/
  | setCp (v : BitVec 64)
  /-- GET_FREQ (R186). -/
  | getFreq
  /-- GET_PFD (R187). -/
  | getPfd
  /-- Reserved opcode 0x0 (R188). -/
  | reserved0
  /-- Reserved opcode 0x8 (R188). -/
  | reserved8
  /-- Reserved opcode 0x9 (R188). -/
  | reserved9
  /-- Reserved opcode 0xA (R188). -/
  | reservedA
  /-- Reserved opcode 0xB (R188). -/
  | reservedB
  /-- Reserved opcode 0xC (R188). -/
  | reservedC
  /-- Reserved opcode 0xD (R188). -/
  | reservedD
  /-- Reserved opcode 0xE (R188). -/
  | reservedE
  /-- Reserved opcode 0xF (R188). -/
  | reservedF
  /-- Output word R0: N_int and N_frac (R142). -/
  | r0 (nint : BitVec 16) (nfrac : BitVec 12)
  /-- Output word R1: prescaler and MOD (R143). -/
  | r1 (pre : Bool) (modulus : BitVec 12)
  /-- Output word R2: doubler, div-2, R-counter, charge-pump code, integer-N (R144). -/
  | r2 (dbl div2 : Bool) (rCnt : BitVec 10) (cp : BitVec 4) (intn : Bool)
  /-- Output word R3: a constant (R145). -/
  | r3
  /-- Output word R4: divider-select code, output enable, output power (R146). -/
  | r4 (code : BitVec 3) (outEn : Bool) (pwr : BitVec 2)
  /-- Output word R5: a constant (R147). -/
  | r5
  deriving DecidableEq, Repr

/-- True for the rows that stand for a command frame (format CMD of the table), false for the output words. -/
def Instr.isCommand : Instr → Bool
  | .cfgRef .. | .setFreq .. | .setPower .. | .setOutEn .. | .setCp .. | .getFreq | .getPfd => true
  | .reserved0 | .reserved8 | .reserved9 | .reservedA | .reservedB | .reservedC | .reservedD | .reservedE
  | .reservedF => true
  | .r0 .. | .r1 .. | .r2 .. | .r3 | .r4 .. | .r5 => false

end Sys2Proof
end

