-- ==== Sys2Proof/WellFormed.lean ====
section
/-! DEFINITION. Which instructions are well-formed. Every operand of a command is legal at every value (30_encoding.md
R74, R76), so a command is always well-formed. An output word is well-formed when its fields lie in the ranges the
planner and the registers keep: 41_encoder.md R141 and 40_planner.md R118. -/

namespace Sys2Proof

/-- The range checks on the fields of an output word. The field widths do the rest. -/
def Instr.wellFormed : Instr → Bool
  | .cfgRef .. | .setFreq .. | .setPower .. | .setOutEn .. | .setCp .. | .getFreq | .getPfd => true
  | .reserved0 | .reserved8 | .reserved9 | .reservedA | .reservedB | .reservedC | .reservedD | .reservedE
  | .reservedF => true
  -- nfrac < mod <= 4095 (R115, R112)
  | .r0 _ nfrac => decide (nfrac.toNat < 4095)
  -- 1 <= mod (R112)
  | .r1 _ modulus => decide (1 ≤ modulus.toNat)
  -- r_cnt never holds 0 (10_state.md R23)
  | .r2 _ _ rCnt _ _ => decide (1 ≤ rCnt.toNat)
  | .r3 => true
  -- the divider-select code is 0..6 (R104)
  | .r4 code _ _ => decide (code.toNat ≤ 6)
  | .r5 => true

end Sys2Proof
end

