-- ==== Sys2Proof/Decode.lean ====
section
/-! DEFINITION. Decoding and encoding. `decode` reads a command frame (30_encoding.md R70 to R76) and rejects, by name,
the frames whose reserved header bits are not 0. `outFormat` is the reader of the bus stream of R79: it tells the six
output formats apart by bits [2:0] alone. `decodeOut` is the strict one, which checks the fixed bits too. The encoders
are written from the same tables. -/

namespace Sys2Proof

/-- Why a frame is no row of the opcode table. -/
inductive DecodeReject where
  /-- `hdr[31:4]` is not 0 (30_encoding.md R71): the frame is ill-formed, and is answered with BadCommand. -/
  | reservedHeader (hi : BitVec 28)
  deriving DecidableEq, Repr

/-- Why a word is none of the six output formats. -/
inductive OutReject where
  /-- Bits [2:0] are 6 or 7, which the block never emits (20_memory.md R51). -/
  | unusedAddress
  /-- A bit that the format of the word's address fixes has the other value (41_encoder.md R142 to R148). The rejection is
  the model's own, notes/assumptions/15.md. -/
  | fixedBits
  deriving DecidableEq, Repr

/-- `hdr[31:4]`, reserved (R71). -/
def headerReserved (hdr : BitVec 32) : BitVec 28 := hdr.extractLsb' 4 28

/-- `hdr[3:0]`, the opcode (R71). -/
def headerOpcode (hdr : BitVec 32) : BitVec 4 := hdr.extractLsb' 0 4

/-- The opcode map of R72 with the operand fields of R73. -/
def decodeOpcode (op : BitVec 4) (a b : BitVec 64) : Instr :=
  match op.toNat with
  | 0x0 => .reserved0
  | 0x1 => .cfgRef (a.extractLsb' 0 32) (b.extractLsb' 0 10) (b.getLsbD 16) (b.getLsbD 17)
  | 0x2 => .setFreq a b
  | 0x3 => .setPower a
  | 0x4 => .setOutEn (a.getLsbD 0)
  | 0x5 => .setCp a
  | 0x6 => .getFreq
  | 0x7 => .getPfd
  | 0x8 => .reserved8
  | 0x9 => .reserved9
  | 0xA => .reservedA
  | 0xB => .reservedB
  | 0xC => .reservedC
  | 0xD => .reservedD
  | 0xE => .reservedE
  | _ => .reservedF

/-- The command a frame stands for, or the name of the reason why it stands for none (R71, R75, R76). -/
def decode (fr : Frame) : Except DecodeReject Instr :=
  if headerReserved fr.hdr = 0#28 then
    .ok (decodeOpcode (headerOpcode fr.hdr) fr.a fr.b)
  else
    .error (.reservedHeader (headerReserved fr.hdr))

/-! The six output patterns, most significant bit at the left, as the table's "encoding" column writes them. -/

/-- `0NNNNNNNNNNNNNNNNFFFFFFFFFFFF000` (R142). -/
def r0Word (nint : BitVec 16) (nfrac : BitVec 12) : Word := 0#1 ++ nint ++ nfrac ++ 0#3

/-- `0000P000000000001MMMMMMMMMMMM001` (R143). -/
def r1Word (pre : Bool) (modulus : BitVec 12) : Word :=
  0#4 ++ BitVec.ofBool pre ++ 0#11 ++ 1#1 ++ modulus ++ 1#3

/-- `000000DHRRRRRRRRRR0CCCCLL1000010` (R144). -/
def r2Word (dbl div2 : Bool) (rCnt : BitVec 10) (cp : BitVec 4) (intn : Bool) : Word :=
  0#6 ++ BitVec.ofBool dbl ++ BitVec.ofBool div2 ++ rCnt ++ 0#1 ++ cp ++ BitVec.ofBool intn ++ BitVec.ofBool intn
    ++ 0b1000#4 ++ 2#3

/-- `00000000000000000000010010110011` (R145). -/
def r3Word : Word := 0b00000000000000000000010010110011#32

/-- `000000000DDD11001000000000EPP100` (R146). -/
def r4Word (code : BitVec 3) (outEn : Bool) (pwr : BitVec 2) : Word :=
  0#9 ++ code ++ 0b11001000#8 ++ 0#6 ++ BitVec.ofBool outEn ++ pwr ++ 4#3

/-- `00000000010110000000000000000101` (R147). -/
def r5Word : Word := 0b00000000010110000000000000000101#32

/-- The register address a word carries in bits [2:0] (20_memory.md R50). -/
def wordAddress (w : Word) : BitVec 3 := w.extractLsb' 0 3

/-- The format of a word, from its address alone, with its fields (R79); no check of the fixed bits. A row R2 has one
lock-detect field for the bits 7 and 8, which the block never emits apart (41_encoder.md R144, R151). For a word in which
they differ the rules give a reader no field value; taking bit 8 is the model's choice: DESIGN CHOICE,
notes/assumptions/16.md. -/
def outFields (w : Word) : Option (Instr × Word) :=
  match (wordAddress w).toNat with
  | 0 =>
    let n := w.extractLsb' 15 16
    let f := w.extractLsb' 3 12
    some (.r0 n f, r0Word n f)
  | 1 =>
    let p := w.getLsbD 27
    let m := w.extractLsb' 3 12
    some (.r1 p m, r1Word p m)
  | 2 =>
    let d := w.getLsbD 25
    let h := w.getLsbD 24
    let r := w.extractLsb' 14 10
    let c := w.extractLsb' 9 4
    let l := w.getLsbD 8
    some (.r2 d h r c l, r2Word d h r c l)
  | 3 => some (.r3, r3Word)
  | 4 =>
    let c := w.extractLsb' 20 3
    let e := w.getLsbD 5
    let p := w.extractLsb' 3 2
    some (.r4 c e p, r4Word c e p)
  | 5 => some (.r5, r5Word)
  | _ => none

/-- The reader of the bus stream (R79): the row of the table a word belongs to, by bits [2:0] alone (match: the address,
mask: 0x7), with the fields `outFields` finds there; none for the addresses 6 and 7. -/
def outFormat (w : Word) : Option Instr := (outFields w).map Prod.fst

/-- The strict reader of the bus stream: the row `outFormat` answers, if the word is that row's encoding. A word whose
fixed bits differ from its row's pattern is rejected by name: DESIGN CHOICE, notes/assumptions/15.md. -/
def decodeOut (w : Word) : Except OutReject Instr :=
  match outFields w with
  | none => .error .unusedAddress
  | some (i, pattern) => if pattern = w then .ok i else .error .fixedBits

/-! The encoder. -/

/-- What an instruction is written as: a frame at the command port, or a word on the bus stream. -/
inductive Encoding where
  | command (fr : Frame)
  | output (w : Word)
  deriving DecidableEq, Repr

/-- Operand B of CFG_REF: r in bits [9:0], the doubler flag in bit 16, the divide-by-2 flag in bit 17, 0 elsewhere
(R73, R80). -/
def cfgRefB (r : BitVec 10) (dblop div2op : Bool) : BitVec 64 :=
  0#46 ++ BitVec.ofBool div2op ++ BitVec.ofBool dblop ++ 0#6 ++ r

/-- The words of an instruction; the operand bits a command ignores are 0 (R72, R73, R80; R142 to R147). -/
def encode : Instr → Encoding
  | .cfgRef ref r dblop div2op => .command ⟨0x00000001#32, 0#32 ++ ref, cfgRefB r dblop div2op⟩
  | .setFreq f s => .command ⟨0x00000002#32, f, s⟩
  | .setPower v => .command ⟨0x00000003#32, v, 0⟩
  | .setOutEn en => .command ⟨0x00000004#32, 0#63 ++ BitVec.ofBool en, 0⟩
  | .setCp v => .command ⟨0x00000005#32, v, 0⟩
  | .getFreq => .command ⟨0x00000006#32, 0, 0⟩
  | .getPfd => .command ⟨0x00000007#32, 0, 0⟩
  | .reserved0 => .command ⟨0x00000000#32, 0, 0⟩
  | .reserved8 => .command ⟨0x00000008#32, 0, 0⟩
  | .reserved9 => .command ⟨0x00000009#32, 0, 0⟩
  | .reservedA => .command ⟨0x0000000A#32, 0, 0⟩
  | .reservedB => .command ⟨0x0000000B#32, 0, 0⟩
  | .reservedC => .command ⟨0x0000000C#32, 0, 0⟩
  | .reservedD => .command ⟨0x0000000D#32, 0, 0⟩
  | .reservedE => .command ⟨0x0000000E#32, 0, 0⟩
  | .reservedF => .command ⟨0x0000000F#32, 0, 0⟩
  | .r0 nint nfrac => .output (r0Word nint nfrac)
  | .r1 pre modulus => .output (r1Word pre modulus)
  | .r2 dbl div2 rCnt cp intn => .output (r2Word dbl div2 rCnt cp intn)
  | .r3 => .output r3Word
  | .r4 code outEn pwr => .output (r4Word code outEn pwr)
  | .r5 => .output r5Word

/-- Reading back what `encode` writes: a frame through the command decoder, a word through the strict
reader of the bus stream. -/
def decodeEncoding : Encoding → Option Instr
  | .command fr => (decode fr).toOption
  | .output w => (decodeOut w).toOption

/-- The frame whose 160 bits are `w`: `hdr` in bits 31..0, `A` in bits 95..32, `B` in bits 159..96. The spec gives the
three fields of a frame no order in one number; DESIGN CHOICE, notes/assumptions/6.md. Bits of `w` above `nbits` are
taken as 0. -/
def frameOfTableWord (nbits w : Nat) : Frame :=
  let v := w % 2 ^ nbits
  ⟨BitVec.ofNat 32 v, BitVec.ofNat 64 (v / 2 ^ 32), BitVec.ofNat 64 (v / 2 ^ 96)⟩

/-- The instruction the command decoder reads from a table row's bits; none where it rejects the frame. -/
def decodeTableWord (nbits w : Nat) : Option Instr := (decode (frameOfTableWord nbits w)).toOption

end Sys2Proof
end

