-- ==== Sys2Proof/Machine/State.lean ====
section
/-! DEFINITION. The machine's state (10_state.md R20), its value after reset (70_reset_and_hazards.md R250), the error
kinds, and the reasons a step could stop. -/

namespace Sys2Proof.Machine

/-- The session state (10_state.md R21). -/
inductive Session where
  /-- UNCONFIGURED: no reference set. -/
  | unconfigured
  /-- IDLE: reference configured, no valid plan. -/
  | idle
  /-- LOCKED: the last SET_FREQ succeeded. It does not mean that the chip has achieved lock (R21). -/
  | locked
  deriving DecidableEq, Repr

/-- The four status codes of 30_encoding.md R78. All four values of the 2-bit code are named, so the names hold what
`rsp_status` holds (notes/assumptions/9.md). -/
inductive Status where
  | ok
  | outOfRange
  | planInfeasible
  | badCommand
  deriving DecidableEq, Repr

/-- The errors a command can raise (00_scope.md R13, 60_exceptions.md R220). Raising one is no fault: the command ends
with the response alone written, and the block takes the next command. -/
inductive Error where
  | outOfRange
  | planInfeasible
  | badCommand
  deriving DecidableEq, Repr

/-- The register image `img[0..5]` (10_state.md R30). `none` is the spec's mark "unwritten" (R39). -/
structure Image where
  r0 : Option Word
  r1 : Option Word
  r2 : Option Word
  r3 : Option Word
  r4 : Option Word
  r5 : Option Word
  deriving DecidableEq, Repr

/-- A command's response (30_encoding.md R77). -/
structure Response where
  status : Status
  a      : BitVec 64
  b      : BitVec 64
  deriving DecidableEq, Repr

/-- The state of the block: every element of 10_state.md R20, and `port`, the model's own field: the command frames the
host has presented and the block has not performed yet, oldest first (notes/assumptions/1.md). -/
structure State where
  /-- `sess` (R21) -/
  sess      : Session
  /-- `ref_hz`, hertz (R22) -/
  refHz     : BitVec 32
  /-- `r_cnt`, 1 to 1023 (R23) -/
  rCnt      : BitVec 10
  /-- `dbl` (R24) -/
  dbl       : Bool
  /-- `div2` (R25) -/
  div2      : Bool
  /-- `pwr` (R26) -/
  pwr       : BitVec 2
  /-- `out_en` (R27) -/
  outEn     : Bool
  /-- `cp` (R28) -/
  cp        : BitVec 4
  /-- `last_freq`, hertz (R29) -/
  lastFreq  : BitVec 64
  /-- `img[0..5]` (R30) -/
  img       : Image
  /-- `rsp_status` (R31) -/
  rspStatus : Status
  /-- `rsp_a` (R31) -/
  rspA      : BitVec 64
  /-- `rsp_b` (R31) -/
  rspB      : BitVec 64
  /-- `bus`, every word handed to the Bus Writer since reset, oldest first (R33) -/
  bus       : List Word
  /-- The commands presented and not performed yet, oldest first; the model's own field. -/
  port      : List Frame
  deriving DecidableEq, Repr

/-- The one way a run of the model could stop with a fault. No command raises it. -/
inductive Fault where
  /-- Raised by `readImage` alone, which only claims use, when the image entry is still "unwritten" (10_state.md R39,
  93_implementation_defined.md U6). Safe: such a read gives no word to reason about. -/
  | unwrittenImage (i : Fin 6)
  deriving DecidableEq, Repr

/-- The reasons to refuse an instruction. None is raised: every row of the table has its meaning. -/
inductive Refusal where
  /-- Raised by `exec` for an instruction without a meaning. Safe, and raised by no arm of this model. -/
  | notModelled (mnemonic : String)
  deriving DecidableEq, Repr

/-- An image with all six entries "unwritten" (R30). -/
def Image.unwritten : Image := ⟨none, none, none, none, none, none⟩

/-- The block right after reset (70_reset_and_hazards.md R250). Reset emits no word (R251). `port` is empty: the host
has presented nothing (notes/assumptions/1.md). -/
def State.reset : State where
  sess      := .unconfigured
  refHz     := 0
  rCnt      := 1
  dbl       := false
  div2      := false
  pwr       := 0
  outEn     := false
  cp        := 0
  lastFreq  := 0
  img       := Image.unwritten
  rspStatus := .ok
  rspA      := 0
  rspB      := 0
  bus       := []
  port      := []

end Sys2Proof.Machine
end

