-- ==== Sys2Proof/Machine/Ops.lean ====
section
/-! DEFINITION. The shared operations: the arithmetic primitives of 00_scope.md R14, the state primitives of R13
(BusEmit, Respond, raise), the register image, and taking the next command from the port. -/

namespace Sys2Proof.Machine

/-! Arithmetic (R14). -/

/-- `rhu(n, d)`: n/d rounded to the nearest natural number, ties going up (R14, decision D7). -/
def rhu (n d : Nat) : Nat := (2 * n + d) / (2 * d)

/-- `clamp(v, lo, hi)` on integers (R14). -/
def clamp (v lo hi : Int) : Int := min (max v lo) hi

/-! The response (R13, 30_encoding.md R77). -/

/-- `Respond(status, a, b)` (R13): the response elements of 10_state.md R31 and nothing else. -/
def respond (st : Status) (a b : BitVec 64) (s : State) : State :=
  { s with rspStatus := st, rspA := a, rspB := b }

/-- The status code of an error (30_encoding.md R78). -/
def Error.status : Error → Status
  | .outOfRange => .outOfRange
  | .planInfeasible => .planInfeasible
  | .badCommand => .badCommand

/-- `raise <Error>()` (R13, 60_exceptions.md R224): this hardware's whole error entry. It writes the response, and no
other element; there is no handler, no saved pc and no return (R227, R228). -/
def raiseError (e : Error) (s : State) : State := respond e.status 0 0 s

/-- The response a command has left (10_state.md R31). -/
def State.response (s : State) : Response := ⟨s.rspStatus, s.rspA, s.rspB⟩

/-! The bus stream and the register image. -/

/-- `BusEmit(w)` (R13): append one word to the bus stream (10_state.md R33). It never fails (60_exceptions.md R237). -/
def busEmit (w : Word) (s : State) : State := { s with bus := s.bus ++ [w] }

/-- `img[i]` (10_state.md R30). -/
def Image.get (m : Image) (i : Fin 6) : Option Word :=
  match i with
  | 0 => m.r0
  | 1 => m.r1
  | 2 => m.r2
  | 3 => m.r3
  | 4 => m.r4
  | 5 => m.r5

/-- `img[i] <- w` (10_state.md R30, 41_encoder.md R150). -/
def Image.set (m : Image) (i : Fin 6) (w : Word) : Image :=
  match i with
  | 0 => { m with r0 := some w }
  | 1 => { m with r1 := some w }
  | 2 => { m with r2 := some w }
  | 3 => { m with r3 := some w }
  | 4 => { m with r4 := some w }
  | 5 => { m with r5 := some w }

/-- Reading an image entry, for claims (10_state.md R39): an unwritten entry holds no word, and the read is a fault. -/
def readImage (i : Fin 6) (s : State) : Except Fault Word :=
  match s.img.get i with
  | some w => .ok w
  | none => .error (.unwrittenImage i)

/-- Handing the word of chip register i to the Bus Writer: BusEmit, and the record of it in `img[i]`, which "holds the
32-bit word last emitted for chip register i" (10_state.md R30). -/
def emitRegister (i : Fin 6) (w : Word) (s : State) : State :=
  { busEmit w s with img := s.img.set i w }

/-- The six words of one encoding (41_encoder.md R140); `wi` is the word of chip register i. -/
structure Words where
  w0 : Word
  w1 : Word
  w2 : Word
  w3 : Word
  w4 : Word
  w5 : Word
  deriving DecidableEq, Repr

/-- `WriteSeq(w0..w5)` (41_encoder.md R150): the six words in the order R5, R4, R3, R2, R1, R0, and all six image
entries, in one step. -/
def writeSeq (ws : Words) (s : State) : State :=
  { s with
    bus := s.bus ++ [ws.w5, ws.w4, ws.w3, ws.w2, ws.w1, ws.w0]
    img := ⟨some ws.w0, some ws.w1, some ws.w2, some ws.w3, some ws.w4, some ws.w5⟩ }

/-! The command port. -/

/-- The host presents a command: it is performed after those presented before it (20_memory.md R58). -/
def present (fr : Frame) (s : State) : State := { s with port := s.port ++ [fr] }

/-- The next command, and the state without it. -/
def fetch (s : State) : Option (Frame × State) :=
  match s.port with
  | [] => none
  | fr :: rest => some (fr, { s with port := rest })

end Sys2Proof.Machine
end

