-- ==== Sys2Proof/Machine/Flags.lean ====
section
/-! DEFINITION. The flags. The block has no condition codes (10_state.md R32): its one status indication is
`rsp_status`, whose codes are here, and the planner's two flags are the prescaler and integer-N mode. -/

namespace Sys2Proof.Machine

/-- The 2-bit status code (30_encoding.md R78). -/
def Status.code : Status → BitVec 2
  | .ok => 0
  | .outOfRange => 1
  | .planInfeasible => 2
  | .badCommand => 3

/-- `pre`: 1 selects 8/9, when the feedback integer after the carry is at least 75 (40_planner.md R116). -/
def prescalerFlag (nint : Nat) : Bool := decide (Config.prescalerThreshold ≤ nint)

/-- `intn`: integer-N mode, exactly when the fraction after the carry is 0 (40_planner.md R117). -/
def integerNFlag (nfrac : Nat) : Bool := decide (nfrac = 0)

end Sys2Proof.Machine
end

