-- ==== Sys2Proof/Machine/Operands.lean ====
section
/-! DEFINITION. The operand forms that are computed when a command is performed: the signed operands of SET_POWER and
SET_CP, the R-counter operand of CFG_REF and the spacing of SET_FREQ. The bit fields themselves are taken apart by
`decodeOpcode` (30_encoding.md R73). -/

namespace Sys2Proof.Machine

/-- The power level SET_POWER stores: operand A as a signed integer, clamped to 0..3 (42_commands.md R183). -/
def powerOperand (v : BitVec 64) : BitVec 2 := BitVec.ofInt 2 (clamp v.toInt 0 Config.powerMax)

/-- The charge-pump code SET_CP stores: operand A as a signed integer, clamped to 0..15 (42_commands.md R185). -/
def chargePumpOperand (v : BitVec 64) : BitVec 4 := BitVec.ofInt 4 (clamp v.toInt 0 Config.cpMax)

/-- The R-counter CFG_REF stores: 0 is stored as 1 (42_commands.md R181, decision D10). -/
def rCounterOperand (r : BitVec 10) : BitVec 10 := if r = 0 then 1 else r

/-- The effective spacing in hertz: 0 selects the default (40_planner.md R109). -/
def effectiveSpacing (s : Nat) : Nat := if s = 0 then Config.spacingDefault else s

end Sys2Proof.Machine
end

