-- ==== Sys2Proof/Machine/Planner.lean ====
section
/-! DEFINITION. The frequency planner (40_planner.md R100 to R122): a pure function of the target, the spacing and the
reference registers, in exact natural-number arithmetic (00_scope.md R9). -/

namespace Sys2Proof.Machine

/-- The Synthesis Plan (40_planner.md R118). It is no state: it lives inside one SET_FREQ (10_state.md R35). -/
structure Plan where
  /-- output divider -/
  dv      : Nat
  /-- divider select code -/
  code    : Nat
  /-- VCO frequency, hertz -/
  vco     : Nat
  /-- feedback integer after the carry; unbounded -/
  nint    : Nat
  /-- feedback fraction after the carry -/
  nfrac   : Nat
  /-- fractional modulus, the spec's `mod` -/
  modulus : Nat
  /-- prescaler, 1 = 8/9 -/
  pre     : Bool
  /-- integer-N mode -/
  intn    : Bool
  deriving DecidableEq, Repr

/-- The numerator of f_PFD: `ref_hz * (1 + dbl)` (R101). -/
def pfdNum (s : State) : Nat := s.refHz.toNat * (1 + s.dbl.toNat)

/-- The denominator of f_PFD: `r_cnt * (1 + div2)` (R101). -/
def pfdDen (s : State) : Nat := s.rCnt.toNat * (1 + s.div2.toNat)

/-- The condition under which `RangeCheck` passes; both ends are inclusive (R102). -/
def inRange (f : Nat) : Bool := decide (Config.fMin ≤ f) && decide (f ≤ Config.fMax)

/-- The condition under which `ConfigCheck` passes (R103). -/
def configured (s : State) : Bool := decide (s.sess ≠ .unconfigured) && decide (pfdNum s ≠ 0)

/-- The condition under which `VcoCheck` passes; the window is closed at both ends (R107, 90_conflicts.md C1). It holds of
`f * (divSel f).1` for every f that `inRange` accepts, so the check in `plan` never fails (R108). -/
def vcoLegal (vco : Nat) : Bool := decide (Config.vcoMin ≤ vco) && decide (vco ≤ Config.vcoMax)

/-- Rows 1 to 6 of the divider table: threshold in hertz, divider, select code (R104). -/
def dividerTable : List (Nat × Nat × Nat) :=
  [(2200000000, 1, 0), (1100000000, 2, 1), (550000000, 4, 2), (275000000, 8, 3), (137500000, 16, 4), (68750000, 32, 5)]

/-- The first row whose threshold f meets; row 7 when it meets none (R105). -/
def divSelFrom (f : Nat) : List (Nat × Nat × Nat) → Nat × Nat
  | [] => (64, 6)
  | (t, dv, code) :: rows => if t ≤ f then (dv, code) else divSelFrom f rows

/-- `DivSel(f)`: divider and select code (R105). -/
def divSel (f : Nat) : Nat × Nat := divSelFrom f dividerTable

/-- `FeedbackInt`: the integer part of N = vco / f_PFD, and the remainder (R110). -/
def feedbackInt (vco num den : Nat) : Nat × Nat := (vco * den / num, vco * den % num)

/-- The modulus before clamping: f_PFD / spacing, rounded (R111). -/
def modBeforeClamp (num den sp : Nat) : Nat := rhu num (den * sp)

/-- `ModConv`: the modulus, clamped to 1..4095 (R112). -/
def modConv (num den sp : Nat) : Nat := (clamp (modBeforeClamp num den sp) 1 Config.modMax).toNat

/-- `FracConv`: the fraction before the carry (R113). With `rem < num` it is at most the modulus (R115). -/
def fracConv (rem modulus num : Nat) : Nat := rhu (rem * modulus) num

/-- `Carry`: a fraction that rounded up to a whole step goes into the integer (R114). On a fraction of `fracConv` it is
taken exactly when the fraction is the modulus, and then adds 1 and leaves 0 (R115). -/
def carry (nint0 nfrac0 modulus : Nat) : Nat × Nat :=
  if modulus ≤ nfrac0 then (nint0 + nfrac0 / modulus, nfrac0 % modulus) else (nint0, nfrac0)

/-- The plan for a divider, a VCO frequency, a phase-detector frequency num/den and an effective spacing: the last steps
of R100, with the prescaler and integer-N tests on the values after the carry (R116, R117). -/
def planFields (dv code vco num den sp : Nat) : Plan :=
  let nr := feedbackInt vco num den
  let m := modConv num den sp
  let nf := carry nr.1 (fracConv nr.2 m num) m
  { dv := dv, code := code, vco := vco, nint := nf.1, nfrac := nf.2, modulus := m,
    pre := prescalerFlag nf.1, intn := integerNFlag nf.2 }

/-- `Plan(f, s)` (R100): the checks in their order, the first that fails ending the planner. The third never fails, so
PlanInfeasible comes from `configured` alone (R108). -/
def plan (f sp : Nat) (s : State) : Except Error Plan :=
  if inRange f = false then .error .outOfRange
  else if configured s = false then .error .planInfeasible
  else if vcoLegal (f * (divSel f).1) = false then .error .planInfeasible
  else .ok (planFields (divSel f).1 (divSel f).2 (f * (divSel f).1) (pfdNum s) (pfdDen s) (effectiveSpacing sp))

/-- The output frequency a plan describes for a phase-detector frequency, in hertz (R119). -/
def reconstruct (fpfd : Rat) (p : Plan) : Rat := fpfd * (p.nint + p.nfrac / p.modulus) / p.dv

/-- f_PFD as the exact rational of R101. -/
def pfdHz (s : State) : Rat := (pfdNum s : Rat) / (pfdDen s : Rat)

end Sys2Proof.Machine
end

