-- ==== Sys2Proof/Machine/Encoder.lean ====
section
/-! DEFINITION. The register encoder (41_encoder.md R140 to R148): it packs a plan and the static configuration
registers into six words. Every field is placed by `place`, as the rules write it; the output patterns of Decode.lean
are written from the opcode table instead, and that the two agree is a claim. -/

namespace Sys2Proof.Machine

/-! The three bit values that the source does not give and the spec's rules fix from general knowledge
(93_implementation_defined.md G4, G5, G6; notes/assumptions/7.md). UNVERIFIED. -/

/-- `FBSEL_DIVIDED`, R4 bit 23 (R146, decision D20). -/
def fbselDivided : Nat := 0

/-- `R1_BIT15`, the phase-adjust bit (R143, decision D19). -/
def r1Bit15 : Nat := 1

/-- `R5_BIT22`, the lock-detect mode (R147, decision D22). -/
def r5Bit22 : Nat := 1

/-- `place(v, p, k)`: the low k bits of v, at bit p (R141). -/
def place (v p k : Nat) : Word := (BitVec.ofNat k v).setWidth 32 <<< p

/-- Word R0 (R142). -/
def encodeR0 (p : Plan) : Word := place p.nint 15 16 ||| place p.nfrac 3 12

/-- Word R1 (R143). -/
def encodeR1 (p : Plan) : Word := place p.pre.toNat 27 1 ||| place r1Bit15 15 1 ||| place p.modulus 3 12 ||| 1

/-- Word R2 (R144). -/
def encodeR2 (p : Plan) (s : State) : Word :=
  place s.dbl.toNat 25 1 ||| place s.div2.toNat 24 1 ||| place s.rCnt.toNat 14 10 ||| place s.cp.toNat 9 4
    ||| place p.intn.toNat 8 1 ||| place p.intn.toNat 7 1 ||| place 1 6 1 ||| 2

/-- Word R3, a constant (R145). -/
def encodeR3 : Word := place Config.r3ClkDiv 3 12 ||| 3

/-- Word R4 (R146). -/
def encodeR4 (p : Plan) (s : State) : Word :=
  place fbselDivided 23 1 ||| place p.code 20 3 ||| place Config.r4BsClkDiv 12 8 ||| place 0 6 6
    ||| place s.outEn.toNat 5 1 ||| place s.pwr.toNat 3 2 ||| 4

/-- Word R5, a constant (R147). -/
def encodeR5 : Word := place r5Bit22 22 1 ||| place Config.r5Reserved 19 2 ||| 5

/-- `Encode(P)` (R140): total, and it writes no state. -/
def encodeWords (p : Plan) (s : State) : Words :=
  { w0 := encodeR0 p, w1 := encodeR1 p, w2 := encodeR2 p s, w3 := encodeR3, w4 := encodeR4 p s, w5 := encodeR5 }

end Sys2Proof.Machine
end

