-- ==== Sys2Proof/Machine/Frequency.lean ====
section
/-! DEFINITION. The commands about the output frequency: SET_FREQ and GET_FREQ. -/

namespace Sys2Proof.Machine

/-- What a successful SET_FREQ leaves: the six words emitted and recorded, `last_freq`, the session LOCKED, the response
OK (42_commands.md R182). -/
def lockPlan (f : BitVec 64) (p : Plan) (s : State) : State :=
  respond .ok 0 0 { writeSeq (encodeWords p s) s with lastFreq := f, sess := .locked }

/-- SET_FREQ (42_commands.md R182): plan, encode, write; an error of the planner leaves the response alone
(60_exceptions.md R224). -/
def execSetFreq (f sp : BitVec 64) (s : State) : Host.Outcome State Fault Refusal :=
  match plan f.toNat sp.toNat s with
  | .error e => .next (raiseError e s)
  | .ok p => .next (lockPlan f p s)

/-- GET_FREQ (42_commands.md R186): the target of the last successful SET_FREQ, kept across CFG_REF (decision D26). -/
def execGetFreq (s : State) : Host.Outcome State Fault Refusal :=
  .next (respond .ok s.lastFreq 0 s)

end Sys2Proof.Machine
end

