-- ==== Sys2Proof/Machine/OutWords.lean ====
section
/-! DEFINITION. The output rows R0 to R5 of the opcode table. They are no commands: no frame decodes to one, and the
block emits their words inside SET_FREQ. The meaning of a row is what the spec does with one such word: BusEmit appends
it to the bus stream (00_scope.md R13, 10_state.md R33) and the image entry of its register records it (R30). The write
sequence of 41_encoder.md R150 is these six emissions, R5 first and R0 last. The response is a command's, and stays.
DEDUCED, notes/assumptions/4.md. -/

namespace Sys2Proof.Machine

/-- The emission of a word R0 (41_encoder.md R142). -/
def execR0 (nint : BitVec 16) (nfrac : BitVec 12) (s : State) : Host.Outcome State Fault Refusal :=
  .next (emitRegister 0 (r0Word nint nfrac) s)

/-- The emission of a word R1 (41_encoder.md R143). -/
def execR1 (pre : Bool) (modulus : BitVec 12) (s : State) : Host.Outcome State Fault Refusal :=
  .next (emitRegister 1 (r1Word pre modulus) s)

/-- The emission of a word R2 (41_encoder.md R144). -/
def execR2 (dbl div2 : Bool) (rCnt : BitVec 10) (cp : BitVec 4) (intn : Bool) (s : State) :
    Host.Outcome State Fault Refusal :=
  .next (emitRegister 2 (r2Word dbl div2 rCnt cp intn) s)

/-- The emission of the word R3 (41_encoder.md R145). -/
def execR3 (s : State) : Host.Outcome State Fault Refusal := .next (emitRegister 3 r3Word s)

/-- The emission of a word R4 (41_encoder.md R146). -/
def execR4 (code : BitVec 3) (outEn : Bool) (pwr : BitVec 2) (s : State) : Host.Outcome State Fault Refusal :=
  .next (emitRegister 4 (r4Word code outEn pwr) s)

/-- The emission of the word R5 (41_encoder.md R147). -/
def execR5 (s : State) : Host.Outcome State Fault Refusal := .next (emitRegister 5 r5Word s)

end Sys2Proof.Machine
end

