-- ==== Sys2Proof/Machine/Output.lean ====
section
/-! DEFINITION. The commands that set the static output configuration. None emits a word: the new value reaches the bus
at the next successful SET_FREQ (41_encoder.md R153). -/

namespace Sys2Proof.Machine

/-- SET_POWER (42_commands.md R183). -/
def execSetPower (v : BitVec 64) (s : State) : Host.Outcome State Fault Refusal :=
  .next (respond .ok 0 0 { s with pwr := powerOperand v })

/-- SET_OUTEN (42_commands.md R184). -/
def execSetOutEn (en : Bool) (s : State) : Host.Outcome State Fault Refusal :=
  .next (respond .ok 0 0 { s with outEn := en })

/-- SET_CP (42_commands.md R185). -/
def execSetCp (v : BitVec 64) (s : State) : Host.Outcome State Fault Refusal :=
  .next (respond .ok 0 0 { s with cp := chargePumpOperand v })

end Sys2Proof.Machine
end

