-- ==== Sys2Proof/Machine/Reference.lean ====
section
/-! DEFINITION. The commands about the reference: CFG_REF and GET_PFD. -/

namespace Sys2Proof.Machine

/-- CFG_REF (42_commands.md R181). It cannot fail, emits no word, and moves every session state to IDLE; `last_freq` and
`img` are kept (R256). -/
def execCfgRef (ref : BitVec 32) (r : BitVec 10) (dblop div2op : Bool) (s : State) :
    Host.Outcome State Fault Refusal :=
  .next (respond .ok 0 0
    { s with refHz := ref, rCnt := rCounterOperand r, dbl := dblop, div2 := div2op, sess := .idle })

/-- GET_PFD (42_commands.md R187): the exact, unreduced pair of the current reference registers. -/
def execGetPfd (s : State) : Host.Outcome State Fault Refusal :=
  .next (respond .ok (BitVec.ofNat 64 (pfdNum s)) (BitVec.ofNat 64 (pfdDen s)) s)

end Sys2Proof.Machine
end

