-- ==== Sys2Proof/Machine/Reserved.lean ====
section
/-! DEFINITION. The reserved opcodes and the ill-formed frame: BadCommand (42_commands.md R188). -/

namespace Sys2Proof.Machine

/-- `BadCommandStep` (R188): raise BadCommand; nothing else changes. A frame that the decoder rejects takes it too. -/
def badCommandStep (s : State) : Host.Outcome State Fault Refusal := .next (raiseError .badCommand s)

/-- Reserved opcode 0x0 (R188). -/
def execReserved0 (s : State) : Host.Outcome State Fault Refusal := badCommandStep s

/-- Reserved opcode 0x8 (R188). -/
def execReserved8 (s : State) : Host.Outcome State Fault Refusal := badCommandStep s

/-- Reserved opcode 0x9 (R188). -/
def execReserved9 (s : State) : Host.Outcome State Fault Refusal := badCommandStep s

/-- Reserved opcode 0xA (R188). -/
def execReservedA (s : State) : Host.Outcome State Fault Refusal := badCommandStep s

/-- Reserved opcode 0xB (R188). -/
def execReservedB (s : State) : Host.Outcome State Fault Refusal := badCommandStep s

/-- Reserved opcode 0xC (R188). -/
def execReservedC (s : State) : Host.Outcome State Fault Refusal := badCommandStep s

/-- Reserved opcode 0xD (R188). -/
def execReservedD (s : State) : Host.Outcome State Fault Refusal := badCommandStep s

/-- Reserved opcode 0xE (R188). -/
def execReservedE (s : State) : Host.Outcome State Fault Refusal := badCommandStep s

/-- Reserved opcode 0xF (R188). -/
def execReservedF (s : State) : Host.Outcome State Fault Refusal := badCommandStep s

end Sys2Proof.Machine
end

