-- ==== Sys2Proof/Machine/Dispatch.lean ====
section
/-! DEFINITION. One arm for every row of the opcode table (42_commands.md R180). -/

namespace Sys2Proof.Machine

def exec (i : Instr) (s : State) : Host.Outcome State Fault Refusal :=
  match i with
  | .cfgRef ref r dblop div2op => Sys2Proof.Machine.execCfgRef ref r dblop div2op s
  | .setFreq f sp => Sys2Proof.Machine.execSetFreq f sp s
  | .setPower v => Sys2Proof.Machine.execSetPower v s
  | .setOutEn en => Sys2Proof.Machine.execSetOutEn en s
  | .setCp v => Sys2Proof.Machine.execSetCp v s
  | .getFreq => Sys2Proof.Machine.execGetFreq s
  | .getPfd => Sys2Proof.Machine.execGetPfd s
  | .reserved0 => Sys2Proof.Machine.execReserved0 s
  | .reserved8 => Sys2Proof.Machine.execReserved8 s
  | .reserved9 => Sys2Proof.Machine.execReserved9 s
  | .reservedA => Sys2Proof.Machine.execReservedA s
  | .reservedB => Sys2Proof.Machine.execReservedB s
  | .reservedC => Sys2Proof.Machine.execReservedC s
  | .reservedD => Sys2Proof.Machine.execReservedD s
  | .reservedE => Sys2Proof.Machine.execReservedE s
  | .reservedF => Sys2Proof.Machine.execReservedF s
  | .r0 nint nfrac => Sys2Proof.Machine.execR0 nint nfrac s
  | .r1 pre modulus => Sys2Proof.Machine.execR1 pre modulus s
  | .r2 dbl div2 rCnt cp intn => Sys2Proof.Machine.execR2 dbl div2 rCnt cp intn s
  | .r3 => Sys2Proof.Machine.execR3 s
  | .r4 code outEn pwr => Sys2Proof.Machine.execR4 code outEn pwr s
  | .r5 => Sys2Proof.Machine.execR5 s

end Sys2Proof.Machine
end

