-- ==== Sys2Proof/Machine/Perform.lean ====
section
/-! DEFINITION. Performing one frame, and taking the next one from the port (42_commands.md R180). -/

namespace Sys2Proof.Machine

/-- `Step(hdr, A, B)` (R180): a frame the decoder rejects is answered with BadCommand; every other is performed. -/
def performFrame (fr : Frame) (s : State) : Host.Outcome State Fault Refusal :=
  match decode fr with
  | .ok i => exec i s
  | .error _ => badCommandStep s

/-- One step of the block: the oldest presented command is taken from the port and performed. With no command presented
nothing happens (DESIGN CHOICE, notes/assumptions/2.md). -/
def stepPort (s : State) : Host.Outcome State Fault Refusal :=
  match fetch s with
  | none => .next s
  | some (fr, s') => performFrame fr s'

/-- The host puts a frame where the next step takes its command (notes/assumptions/3.md). -/
def presentNext (fr : Frame) (s : State) : State := { s with port := fr :: s.port }

end Sys2Proof.Machine
end

