-- ==== Sys2Proof/Machine/Step.lean ====
section
/-! DEFINITION. The step, and the placing of a table row's bits where the next step takes its command. -/

namespace Sys2Proof.Machine

/-- One step of the block (00_scope.md R3, R19; 42_commands.md R180). -/
def step (s : State) : Host.Outcome State Fault Refusal := stepPort s

/-- The frame of a table row's bits, presented so that the very next step performs it (notes/assumptions/3.md). -/
def State.withFetchWord (s : State) (nbits w : Nat) : State := presentNext (frameOfTableWord nbits w) s

end Sys2Proof.Machine
end

