-- ==== Sys2Proof/Machine/Assembler.lean ====
section
/-! DEFINITION. The textual command syntax of 30_encoding.md R80, the pseudo-commands of R81 and the frame spelling of
R82. A text is a list of characters. The points of the grammar that R80 leaves open are in notes/assumptions/12.md. No
step uses this file. -/

namespace Sys2Proof.Machine

/-- Why a line is no command. -/
inductive AsmReject where
  /-- the first word of the line is no mnemonic -/
  | unknownMnemonic
  /-- too few or too many operands, or an operand of the wrong kind -/
  | badOperand
  /-- a frequency that is no whole number of hertz (R80) -/
  | notWholeHertz
  /-- a value that does not fit its field (R80) -/
  | doesNotFit
  deriving DecidableEq, Repr

/-- A blank between the words of a line. -/
def isBlank (c : Char) : Bool := c == ' ' || c == '\t'

/-- The characters without the blanks at both ends. -/
def trimBlanks (cs : List Char) : List Char := ((cs.dropWhile isBlank).reverse.dropWhile isBlank).reverse

/-- The text cut at every occurrence of a character. -/
def splitAtChar (sep : Char) : List Char → List (List Char)
  | [] => [[]]
  | c :: cs =>
    if c = sep then [] :: splitAtChar sep cs
    else
      match splitAtChar sep cs with
      | [] => [[c]]
      | g :: gs => (c :: g) :: gs

/-- The value of a decimal digit. -/
def digitValue (c : Char) : Option Nat :=
  if 48 ≤ c.toNat ∧ c.toNat ≤ 57 then some (c.toNat - 48) else none

/-- A run of digits, `_` allowed between two digits (R80): its value and how many digits it has. -/
def readDigitsFrom (acc n : Nat) (afterDigit : Bool) : List Char → Option (Nat × Nat)
  | [] => if afterDigit then some (acc, n) else none
  | c :: cs =>
    if c = '_' then
      if afterDigit then readDigitsFrom acc n false cs else none
    else
      match digitValue c with
      | some d => readDigitsFrom (10 * acc + d) (n + 1) true cs
      | none => none

/-- A non-empty run of digits; leading zeros are allowed (DESIGN CHOICE, notes/assumptions/12.md). -/
def readDigits (cs : List Char) : Option (Nat × Nat) := readDigitsFrom 0 0 false cs

/-- A decimal natural number: digits alone, no sign (DESIGN CHOICE, notes/assumptions/12.md). -/
def readNat (cs : List Char) : Except AsmReject Nat :=
  match readDigits cs with
  | some (v, _) => .ok v
  | none => .error .badOperand

/-- A decimal integer, with an optional minus sign right before its digits. R80 does not say which spellings `<int>` has;
that a plus sign is rejected is the model's choice (DESIGN CHOICE, notes/assumptions/12.md). -/
def readInt (cs : List Char) : Except AsmReject Int :=
  match cs with
  | '-' :: ds =>
    match readDigits ds with
    | some (v, _) => .ok (-(v : Int))
    | none => .error .badOperand
  | ds =>
    match readDigits ds with
    | some (v, _) => .ok v
    | none => .error .badOperand

/-- The number part of a frequency literal and the hertz of its unit; no unit means hertz (R80). -/
def splitUnit (cs : List Char) : List Char × Nat :=
  match cs.reverse with
  | 'z' :: 'H' :: 'M' :: ds => (ds.reverse, 1000000)
  | 'z' :: 'H' :: 'k' :: ds => (ds.reverse, 1000)
  | 'z' :: 'H' :: ds => (ds.reverse, 1)
  | _ => (cs, 1)

/-- A frequency literal, scaled exactly to hertz; rejected if the result is no integer (R80). R80 does not say which
spellings "a decimal number" has; that at most one point stands there, with digits on both sides of it and no sign
before them (so `.5MHz`, `5.MHz` and `+5` are rejected), is the model's choice (DESIGN CHOICE,
notes/assumptions/12.md). -/
def readHertz (cs : List Char) : Except AsmReject Nat :=
  match splitAtChar '.' (splitUnit cs).1 with
  | [whole] =>
    match readDigits whole with
    | some (v, _) => .ok (v * (splitUnit cs).2)
    | none => .error .badOperand
  | [whole, fraction] =>
    match readDigits whole, readDigits fraction with
    | some (v, _), some (u, n) =>
      if ((v * 10 ^ n + u) * (splitUnit cs).2) % 10 ^ n = 0 then
        .ok (((v * 10 ^ n + u) * (splitUnit cs).2) / 10 ^ n)
      else .error .notWholeHertz
    | _, _ => .error .badOperand
  | _ => .error .badOperand

/-- A natural number that must fit its field. -/
def fitNat (bits : Nat) (v : Except AsmReject Nat) : Except AsmReject (BitVec bits) :=
  match v with
  | .error e => .error e
  | .ok n => if n < 2 ^ bits then .ok (BitVec.ofNat bits n) else .error .doesNotFit

/-- An integer that must fit a signed 64-bit operand (R80). -/
def fitSigned (v : Except AsmReject Int) : Except AsmReject (BitVec 64) :=
  match v with
  | .error e => .error e
  | .ok n =>
    if -(9223372036854775808 : Int) ≤ n ∧ n ≤ 9223372036854775807 then .ok (BitVec.ofInt 64 n)
    else .error .doesNotFit

/-- The flags `[, DBL] [, DIV2]` of CFG_REF, in this order (R80). -/
def readFlags : List (List Char) → Option (Bool × Bool)
  | [] => some (false, false)
  | [['D', 'B', 'L']] => some (true, false)
  | [['D', 'I', 'V', '2']] => some (false, true)
  | [['D', 'B', 'L'], ['D', 'I', 'V', '2']] => some (true, true)
  | _ => none

/-- CFG_REF with its operands (R80). -/
def assembleCfgRef (ops : List (List Char)) : Except AsmReject Instr :=
  match ops with
  | ref :: r :: flags =>
    match readFlags flags, fitNat 32 (readHertz ref), fitNat 10 (readNat r) with
    | some (d, h), .ok f, .ok n => .ok (.cfgRef f n d h)
    | none, _, _ => .error .badOperand
    | _, .error e, _ => .error e
    | _, _, .error e => .error e
  | _ => .error .badOperand

/-- SET_FREQ with its operands; an omitted spacing is 0 (R80, R81). -/
def assembleSetFreq (ops : List (List Char)) : Except AsmReject Instr :=
  match ops with
  | [f] =>
    match fitNat 64 (readHertz f) with
    | .ok v => .ok (.setFreq v 0)
    | .error e => .error e
  | [f, sp] =>
    match fitNat 64 (readHertz f), fitNat 64 (readHertz sp) with
    | .ok v, .ok u => .ok (.setFreq v u)
    | .error e, _ => .error e
    | _, .error e => .error e
  | _ => .error .badOperand

/-- One signed operand. -/
def assembleSigned (ops : List (List Char)) : Except AsmReject (BitVec 64) :=
  match ops with
  | [v] => fitSigned (readInt v)
  | _ => .error .badOperand

/-- A command without operands. -/
def assembleBare (ops : List (List Char)) (i : Instr) : Except AsmReject Instr :=
  match ops with
  | [] => .ok i
  | _ => .error .badOperand

/-- A mnemonic with its operands (R80, R81). -/
def assembleCommand (mnemonic : List Char) (ops : List (List Char)) : Except AsmReject Instr :=
  if mnemonic = ['C', 'F', 'G', '_', 'R', 'E', 'F'] then assembleCfgRef ops
  else if mnemonic = ['S', 'E', 'T', '_', 'F', 'R', 'E', 'Q'] then assembleSetFreq ops
  else if mnemonic = ['S', 'E', 'T', '_', 'P', 'O', 'W', 'E', 'R'] then
    match assembleSigned ops with
    | .ok v => .ok (.setPower v)
    | .error e => .error e
  else if mnemonic = ['S', 'E', 'T', '_', 'O', 'U', 'T', 'E', 'N'] then
    match ops with
    | [['0']] => .ok (.setOutEn false)
    | [['1']] => .ok (.setOutEn true)
    | _ => .error .badOperand
  else if mnemonic = ['S', 'E', 'T', '_', 'C', 'P'] then
    match assembleSigned ops with
    | .ok v => .ok (.setCp v)
    | .error e => .error e
  else if mnemonic = ['G', 'E', 'T', '_', 'F', 'R', 'E', 'Q'] then assembleBare ops .getFreq
  else if mnemonic = ['G', 'E', 'T', '_', 'P', 'F', 'D'] then assembleBare ops .getPfd
  else if mnemonic = ['O', 'U', 'T', '_', 'O', 'N'] then assembleBare ops (.setOutEn true)
  else if mnemonic = ['O', 'U', 'T', '_', 'O', 'F', 'F'] then assembleBare ops (.setOutEn false)
  else .error .unknownMnemonic

/-- The operands of a line: cut at the commas, blanks at their ends dropped; none when there is no text. -/
def operandTexts (cs : List Char) : List (List Char) :=
  if trimBlanks cs = [] then [] else (splitAtChar ',' cs).map trimBlanks

/-- A line without its comment, which `;` starts (R80), and without the blanks at its ends. -/
def lineBody (line : List Char) : List Char := trimBlanks (line.takeWhile (· ≠ ';'))

/-- One line: no command when only blanks and a comment stand there (R80). -/
def assembleLine (line : List Char) : Except AsmReject (Option Instr) :=
  if lineBody line = [] then .ok none
  else
    match assembleCommand ((lineBody line).takeWhile fun c => !isBlank c)
        (operandTexts ((lineBody line).dropWhile fun c => !isBlank c)) with
    | .ok i => .ok (some i)
    | .error e => .error e

/-- The lines of a program, one command a line (R80). -/
def assembleLines : List (List Char) → Except AsmReject (List Instr)
  | [] => .ok []
  | l :: ls =>
    match assembleLine l, assembleLines ls with
    | .ok none, .ok is => .ok is
    | .ok (some i), .ok is => .ok (i :: is)
    | .error e, _ => .error e
    | _, .error e => .error e

/-- A program's text. -/
def assemble (text : List Char) : Except AsmReject (List Instr) := assembleLines (splitAtChar '\n' text)

/-! The frame spelling (R82). -/

/-- An upper-case hexadecimal digit. -/
def hexDigit (n : Nat) : Char := if n < 10 then Char.ofNat (48 + n) else Char.ofNat (55 + n)

/-- The `n` low hexadecimal digits of `v`, most significant first. -/
def hexDigits : Nat → Nat → List Char
  | 0, _ => []
  | n + 1, v => hexDigits n (v / 16) ++ [hexDigit (v % 16)]

/-- A frame as `hdr:A:B`, 8, 16 and 16 hexadecimal digits (R82). -/
def spellFrame (fr : Frame) : List Char :=
  hexDigits 8 fr.hdr.toNat ++ ':' :: hexDigits 16 fr.a.toNat ++ ':' :: hexDigits 16 fr.b.toNat

end Sys2Proof.Machine
end

