-- ==== Sys2Proof/Machine/Wire.lean ====
section
/-! DEFINITION. What the Bus Writer does with the words it is handed (60_exceptions.md R236; 20_memory.md R55, R56). The
Bus Writer is out of scope (00_scope.md R6) and holds no state here: its contract is a view of `bus`, and no step reads
it (notes/assumptions/11.md). -/

namespace Sys2Proof.Machine

/-- What can be seen on the serial link. -/
inductive WireEvent where
  /-- the latch line goes low -/
  | latchLow
  /-- one byte is shifted -/
  | byte (b : Byte)
  /-- the latch line goes high -/
  | latchHigh
  /-- a wait of at least so many microseconds -/
  | settle (atLeast : Nat)
  deriving DecidableEq, Repr

/-- The four bytes of a word, most significant first (20_memory.md R55). -/
def wordBytes (w : Word) : List Byte :=
  [w.extractLsb' 24 8, w.extractLsb' 16 8, w.extractLsb' 8 8, w.extractLsb' 0 8]

/-- The bits of a byte, most significant first (20_memory.md R56, decision D31). -/
def byteBits (b : Byte) : List Bool :=
  [b.getLsbD 7, b.getLsbD 6, b.getLsbD 5, b.getLsbD 4, b.getLsbD 3, b.getLsbD 2, b.getLsbD 1, b.getLsbD 0]

/-- The bits of a word in the order they are on the wire. -/
def wordBits (w : Word) : List Bool := (wordBytes w).flatMap byteBits

/-- The Bus Writer's transfer of one word (60_exceptions.md R236). -/
def transferWord (w : Word) : List WireEvent :=
  .latchLow :: (wordBytes w).map .byte ++ [.latchHigh, .settle Config.settleMicros]

/-- The transfers of a list of words, in emission order (60_exceptions.md R236). -/
def transferAll (ws : List Word) : List WireEvent := ws.flatMap transferWord

/-- The bytes among a list of events. -/
def eventBytes : List WireEvent → List Byte
  | [] => []
  | .byte b :: es => b :: eventBytes es
  | .latchLow :: es => eventBytes es
  | .latchHigh :: es => eventBytes es
  | .settle _ :: es => eventBytes es

/-- The least settling time of a list of events, in microseconds (70_reset_and_hazards.md R257). -/
def settleTotal : List WireEvent → Nat
  | [] => 0
  | .settle n :: es => n + settleTotal es
  | .byte _ :: es => settleTotal es
  | .latchLow :: es => settleTotal es
  | .latchHigh :: es => settleTotal es

end Sys2Proof.Machine
end

