-- ==== Sys2Proof/Machine/Run.lean ====
section
/-! DEFINITION. A run: a finite sequence of commands, its final state and the list of responses
(70_reset_and_hazards.md R260). The list of responses is an observation of the run and no state
(notes/assumptions/14.md). -/

namespace Sys2Proof.Machine

/-- The frames performed one after another (20_memory.md R58), with the response each has left. -/
def runFrames : List Frame → State → Host.Outcome (State × List Response) Fault Refusal
  | [], s => .next (s, [])
  | fr :: frs, s =>
    match performFrame fr s with
    | .fault r => .fault r
    | .refused r => .refused r
    | .next s' =>
      match runFrames frs s' with
      | .fault r => .fault r
      | .refused r => .refused r
      | .next (t, rs) => .next (t, s'.response :: rs)

end Sys2Proof.Machine
end

