-- ==== Sys2Proof/Safety.lean ====
section
/-! DEFINITION. What the claims say of a state: the invariants the spec's prose gives (10_state.md R36; 20_memory.md R51,
R57, R62; 42_commands.md R190), and what counts as a command of a run. -/

namespace Sys2Proof.Machine

/-- `r_cnt` is in 1..1023 (10_state.md R23, R36). The ranges of `pwr` and `cp` are their widths. -/
def RCountPositive (s : State) : Prop := s.rCnt ≠ 0

/-- Every word on the bus stream carries one of the addresses 0 to 5 (20_memory.md R51). -/
def BusWellAddressed (s : State) : Prop := ∀ w ∈ s.bus, (wordAddress w).toNat ≤ 5

/-- The bus stream is made of whole write sequences: groups of six words with the addresses 5, 4, 3, 2, 1, 0
(20_memory.md R57, 41_encoder.md R150). -/
def BusGrouped (s : State) : Prop := ∃ k : Nat, s.bus.map wordAddress = (List.replicate k [5, 4, 3, 2, 1, 0]).flatten

/-- The last word on the stream that carries an address. -/
def lastWithAddress (i : Fin 6) (bus : List Word) : Option Word :=
  (bus.filter fun w => wordAddress w == BitVec.ofNat 3 i.val).getLast?

/-- `img[i]` holds the word last emitted for chip register i, and is unwritten when none was (10_state.md R30,
20_memory.md R62). -/
def ImageCoherent (s : State) : Prop := ∀ i : Fin 6, s.img.get i = lastWithAddress i s.bus

/-- A target frequency SET_FREQ accepts (40_planner.md R102). -/
def LegalTarget (f : Nat) : Prop := 35000000 ≤ f ∧ f ≤ 4400000000

/-- What the session state says of the other elements (42_commands.md R190): in UNCONFIGURED nothing has been configured
or emitted; LOCKED has a nonzero reference and a full image; `last_freq` is 0 exactly while nothing was emitted, and is
a legal target otherwise. -/
structure SessionCoherent (s : State) : Prop where
  unconfigured : s.sess = .unconfigured → s.refHz = 0 ∧ s.bus = []
  lockedReference : s.sess = .locked → s.refHz ≠ 0
  lockedImage : s.sess = .locked → ∀ i : Fin 6, s.img.get i ≠ none
  lockedTarget : s.sess = .locked → s.lastFreq ≠ 0
  targetZero : s.lastFreq = 0 ↔ s.bus = []
  targetLegal : s.lastFreq ≠ 0 → LegalTarget s.lastFreq.toNat

/-- The invariant of the block: it holds after reset and every step keeps it. -/
structure Inv (s : State) : Prop where
  rCount    : RCountPositive s
  addressed : BusWellAddressed s
  grouped   : BusGrouped s
  image     : ImageCoherent s
  session   : SessionCoherent s

/-- A frame that is a CFG_REF command (30_encoding.md R72: the whole header word is the match). -/
def IsCfgRef (fr : Frame) : Prop := fr.hdr = 0x00000001#32

/-- A frame that is a SET_FREQ command. -/
def IsSetFreq (fr : Frame) : Prop := fr.hdr = 0x00000002#32

/-- The frame at place `n` of a run is a SET_FREQ that succeeded: its response has the status OK. -/
def SucceedsAt (frs : List Frame) (rs : List Response) (n : Nat) : Prop :=
  (∃ fr, frs[n]? = some fr ∧ IsSetFreq fr) ∧ ∃ r, rs[n]? = some r ∧ r.status = .ok

/-- An ill-formed frame: reserved header bits that are not 0, or the opcode 0x0 or 0x8 to 0xF (30_encoding.md R75). -/
def IllFormed (fr : Frame) : Prop :=
  fr.hdr.toNat / 16 ≠ 0 ∨ fr.hdr.toNat % 16 = 0 ∨ 8 ≤ fr.hdr.toNat % 16

/-- The frame with the operand bits cleared that its command ignores (30_encoding.md R73, R74). -/
def clearIgnored (fr : Frame) : Frame :=
  if fr.hdr = 0x00000001#32 then { fr with a := fr.a &&& 0xFFFFFFFF#64, b := fr.b &&& 0x303FF#64 }
  else if fr.hdr = 0x00000003#32 then { fr with b := 0 }
  else if fr.hdr = 0x00000004#32 then { fr with a := fr.a &&& 1#64, b := 0 }
  else if fr.hdr = 0x00000005#32 then { fr with b := 0 }
  else if fr.hdr = 0x00000006#32 then { fr with a := 0, b := 0 }
  else if fr.hdr = 0x00000007#32 then { fr with a := 0, b := 0 }
  else fr

/-- Rows of the table executed one after another. -/
def execAll : List Instr → State → Host.Outcome State Fault Refusal
  | [], s => .next s
  | i :: is, s =>
    match exec i s with
    | .next t => execAll is t
    | .fault r => .fault r
    | .refused r => .refused r

/-- The six rows of the table for a plan and the static configuration, in bus order (41_encoder.md R142 to R147, R150). -/
def outputRows (p : Plan) (s : State) : List Instr :=
  [.r5, .r4 (BitVec.ofNat 3 p.code) s.outEn s.pwr, .r3, .r2 s.dbl s.div2 s.rCnt s.cp p.intn,
    .r1 p.pre (BitVec.ofNat 12 p.modulus), .r0 (BitVec.ofNat 16 p.nint) (BitVec.ofNat 12 p.nfrac)]

end Sys2Proof.Machine
end

