-- ==== Sys2Proof/Certificates/Slice0/Obligations.lean ====
section
/-! DEFINITION. The statements for the provers. Each formalises a numbered rule of spec/, or is derived from the rules
its docstring names. A rule's "[decision: Dn]" is the spec's own choice (92_eei_decisions.md), its "[derived: ...]" the
spec's own inference; the docstrings say where a statement rests on one. -/

open Sys2Proof Sys2Proof.Machine

/-! ## Encoding -/

/-- Every instruction, at every value of every operand, is read back from what it is written as: a command by the frame
decoder (30_encoding.md R72, R73), an output word by the strict reader of the bus stream (notes/assumptions/15.md). -/
def Obligations.DecodeReadsBackEveryEncoding : Prop :=
  ∀ i : Instr, decodeEncoding (encode i) = some i

/-- The strict reader of the bus stream is exact: a word it accepts is the one encoding of the row it answers, and the
addresses 6 and 7, which the block never emits (20_memory.md R51), are rejected by name. That this reader also checks the
fixed bits of a word is the model's choice, notes/assumptions/15.md: R79 tells the formats apart by bits [2:0] alone. -/
def Obligations.BusReaderAcceptsOnlyEncodings : Prop :=
  ∀ w : Word,
    (∀ i, decodeOut w = .ok i → encode i = .output w) ∧
    (6 ≤ w.toNat % 8 → decodeOut w = .error .unusedAddress)

/-- The reader of the bus stream tells the six formats apart by bits [2:0] alone (30_encoding.md R79), whatever the other
bits are, and takes the fields from the places of 41_encoder.md R142 to R147; the addresses 6 and 7 are no format. The
rules give no field value for a word of R2 whose two lock-detect bits 7 and 8 differ; that the one lock-detect field is
then bit 8 is the model's choice, notes/assumptions/16.md. -/
def Obligations.OutputFormatIsToldByTheAddressAlone : Prop :=
  ∀ w : Word,
    (w.toNat % 8 = 0 → outFormat w =
      some (.r0 (BitVec.ofNat 16 (w.toNat / 2 ^ 15)) (BitVec.ofNat 12 (w.toNat / 2 ^ 3)))) ∧
    (w.toNat % 8 = 1 → outFormat w = some (.r1 (w.toNat.testBit 27) (BitVec.ofNat 12 (w.toNat / 2 ^ 3)))) ∧
    (w.toNat % 8 = 2 → outFormat w = some (.r2 (w.toNat.testBit 25) (w.toNat.testBit 24)
      (BitVec.ofNat 10 (w.toNat / 2 ^ 14)) (BitVec.ofNat 4 (w.toNat / 2 ^ 9)) (w.toNat.testBit 8))) ∧
    (w.toNat % 8 = 3 → outFormat w = some .r3) ∧
    (w.toNat % 8 = 4 → outFormat w = some (.r4 (BitVec.ofNat 3 (w.toNat / 2 ^ 20)) (w.toNat.testBit 5)
      (BitVec.ofNat 2 (w.toNat / 2 ^ 3)))) ∧
    (w.toNat % 8 = 5 → outFormat w = some .r5) ∧
    (6 ≤ w.toNat % 8 → outFormat w = none)

/-- The seven commands are told by the whole header word, with the operand fields of 30_encoding.md R73: ref is A mod
2^32, r is B mod 2^10, the flags are bits 16 and 17 of B, the enable is bit 0 of A, and the others are taken whole. -/
def Obligations.CommandFramesDecodeWithTheirOperands : Prop :=
  ∀ fr : Frame,
    (fr.hdr.toNat = 1 → decode fr = .ok (.cfgRef (BitVec.ofNat 32 fr.a.toNat) (BitVec.ofNat 10 fr.b.toNat)
        (fr.b.toNat.testBit 16) (fr.b.toNat.testBit 17))) ∧
    (fr.hdr.toNat = 2 → decode fr = .ok (.setFreq fr.a fr.b)) ∧
    (fr.hdr.toNat = 3 → decode fr = .ok (.setPower fr.a)) ∧
    (fr.hdr.toNat = 4 → decode fr = .ok (.setOutEn (fr.a.toNat.testBit 0))) ∧
    (fr.hdr.toNat = 5 → decode fr = .ok (.setCp fr.a)) ∧
    (fr.hdr.toNat = 6 → decode fr = .ok .getFreq) ∧
    (fr.hdr.toNat = 7 → decode fr = .ok .getPfd)

/-- A frame with `hdr[31:4]` not 0, or with the opcode 0x0 or 0x8 to 0xF, changes nothing but the response, which says
BadCommand (42_commands.md R188; 30_encoding.md R75). The rules mark it decision D5 of the spec. -/
def Obligations.IllFormedFrameAnswersBadCommand : Prop :=
  ∀ (fr : Frame) (s : State), IllFormed fr →
    performFrame fr s = .next { s with rspStatus := .badCommand, rspA := 0, rspB := 0 }

/-- The operand bits a command ignores have no effect: a frame is performed as the same frame with them cleared
(30_encoding.md R74, decision D25). -/
def Obligations.IgnoredOperandBitsHaveNoEffect : Prop :=
  ∀ (fr : Frame) (s : State), performFrame fr s = performFrame (clearIgnored fr) s

/-- Words written out bit by bit from the rules decode to what they stand for: command frames of 30_encoding.md R72,
R73 and R82, and the six emitted words of the example of 41_encoder.md R150. -/
def Obligations.WrittenOutWordsDecode : Prop :=
  decode ⟨0x00000001#32, 0x00000001017D7840#64, 0x0000000000030002#64⟩ = .ok (.cfgRef 25000000#32 2#10 true true) ∧
  decode ⟨0x00000002#32, 0x000000008F0D1800#64, 0x0000000000002710#64⟩ = .ok (.setFreq 2400000000#64 10000#64) ∧
  decode ⟨0x00000004#32, 0x0000000000000002#64, 0#64⟩ = .ok (.setOutEn false) ∧
  decode ⟨0x00000012#32, 0x000000008F0D1800#64, 0#64⟩ = .error (.reservedHeader 1#28) ∧
  decode ⟨0x0000000F#32, 0#64, 0#64⟩ = .ok .reservedF ∧
  decodeOut 0x00580005#32 = .ok .r5 ∧
  decodeOut 0x000C803C#32 = .ok (.r4 0#3 true 3#2) ∧
  decodeOut 0x000004B3#32 = .ok .r3 ∧
  decodeOut 0x00004FC2#32 = .ok (.r2 false false 1#10 7#4 true) ∧
  decodeOut 0x0800CE21#32 = .ok (.r1 true 2500#12) ∧
  decodeOut 0x00300000#32 = .ok (.r0 96#16 0#12)

/-! ## The step and the run -/

/-- A step takes the oldest presented command, and is the execution of what it decodes to; a frame the decoder rejects
is answered with BadCommand (42_commands.md R180). That the presented commands stand in a list `port`, and that a step
with none presented changes nothing, is the model's choice (notes/assumptions/1.md, 2.md). -/
def Obligations.StepPerformsTheDecodedCommand : Prop :=
  (∀ (s : State) (fr : Frame) (rest : List Frame) (i : Instr),
    s.port = fr :: rest → decode fr = .ok i → step s = exec i { s with port := rest }) ∧
  (∀ (s : State) (fr : Frame) (rest : List Frame) (e : DecodeReject),
    s.port = fr :: rest → decode fr = .error e →
      step s = .next { s with port := rest, rspStatus := .badCommand, rspA := 0, rspB := 0 }) ∧
  (∀ s : State, s.port = [] → step s = .next s) ∧
  (∀ (s : State) (nbits w : Nat) (i : Instr),
    decodeTableWord nbits w = some i → step (s.withFetchWord nbits w) = exec i s)

/-- No command stops the block in any state: there is no fatal condition (60_exceptions.md R220, R228). A step takes one
frame from the port when one is presented; with none presented it answers a next state whose port is empty too. The port
and the step at an empty port are the model's choices, notes/assumptions/1.md and 2.md. -/
def Obligations.NoStepStopsTheBlock : Prop :=
  ∀ s : State, ∃ t, step s = .next t ∧ t.port = s.port.tail

/-- A run of frames never stops, gives one response a frame, and leaves what the host's stepping of the machine leaves
when the frames stand at the port (20_memory.md R58; 70_reset_and_hazards.md R260). -/
def Obligations.RunOfFramesIsTheRunOfSteps : Prop :=
  ∀ (frs : List Frame) (s : State), s.port = [] →
    ∃ t rs, runFrames frs s = .next (t, rs) ∧ rs.length = frs.length ∧
      Host.Core.run Sys2Proof.core frs.length { s with port := frs } = .next t

/-! ## Reset and invariants -/

/-- The value of every element after reset (70_reset_and_hazards.md R250). All but `sess` and `last_freq` are decision
D28 of the spec. -/
def Obligations.ResetValuesOfEveryElement : Prop :=
  State.reset.sess = .unconfigured ∧ State.reset.refHz = 0 ∧ State.reset.rCnt = 1 ∧ State.reset.dbl = false ∧
  State.reset.div2 = false ∧ State.reset.pwr = 0 ∧ State.reset.outEn = false ∧ State.reset.cp = 0 ∧
  State.reset.lastFreq = 0 ∧ (∀ i, State.reset.img.get i = none) ∧ State.reset.rspStatus = .ok ∧
  State.reset.rspA = 0 ∧ State.reset.rspB = 0 ∧ State.reset.bus = []

/-- The invariant of Safety.lean holds after reset. -/
def Obligations.ResetMeetsTheInvariant : Prop := Inv State.reset

/-- Every step keeps the invariant: `r_cnt` is not 0; the bus stream carries the addresses 0 to 5 alone, in whole groups
5, 4, 3, 2, 1, 0; each image entry is the last word emitted with its address; and the session state, `last_freq`, the
reference and the image agree (10_state.md R36; 20_memory.md R51, R57, R62; 42_commands.md R190). -/
def Obligations.EveryStepKeepsTheInvariant : Prop :=
  ∀ s t : State, Inv s → step s = .next t → Inv t

/-- In a LOCKED state every image entry can be read, and holds a word with its own address (42_commands.md R190;
20_memory.md R62). The premise is the invariant, which holds in every state a run reaches. -/
def Obligations.LockedImageReadsBack : Prop :=
  ∀ (s : State) (i : Fin 6), Inv s → s.sess = .locked →
    ∃ w, readImage i s = .ok w ∧ (wordAddress w).toNat = i.val ∧ w ∈ s.bus

/-- Reading an image entry faults exactly while it is unwritten (10_state.md R39, decision D29): after reset every read
faults, and after a successful SET_FREQ none does. -/
def Obligations.UnwrittenImageReadFaults : Prop :=
  (∀ i, readImage i State.reset = .error (.unwrittenImage i)) ∧
  (∀ (i : Fin 6) (ws : Words) (s : State), ∃ w, readImage i (writeSeq ws s) = .ok w)

/-! ## The commands -/

/-- CFG_REF (42_commands.md R181): the reference registers, with an R-counter operand of 0 stored as 1 (decision D10),
the session IDLE, the response OK; everything else, `img`, `last_freq`, `pwr`, `out_en`, `cp` and `bus` among it, is
unchanged. It completes in every state. -/
def Obligations.CfgRefWritesTheReference : Prop :=
  (∀ (a b : BitVec 64) (s : State),
    performFrame ⟨0x00000001#32, a, b⟩ s =
      exec (.cfgRef (a.extractLsb' 0 32) (b.extractLsb' 0 10) (b.getLsbD 16) (b.getLsbD 17)) s) ∧
  (∀ (ref : BitVec 32) (r : BitVec 10) (d h : Bool) (s : State),
    exec (.cfgRef ref r d h) s = .next { s with
      refHz := ref, rCnt := BitVec.ofNat 10 (max r.toNat 1), dbl := d, div2 := h, sess := .idle,
      rspStatus := .ok, rspA := 0, rspB := 0 })

/-- SET_POWER (42_commands.md R183): operand A as a signed integer, clamped to 0..3 (decision D24), is stored in `pwr`;
nothing else but the response changes, and no word is emitted. It completes in every state. -/
def Obligations.SetPowerClampsAndStores : Prop :=
  (∀ (a b : BitVec 64) (s : State), performFrame ⟨0x00000003#32, a, b⟩ s = exec (.setPower a) s) ∧
  (∀ (v : BitVec 64) (s : State), ∃ p : BitVec 2, (p.toNat : Int) = min (max v.toInt 0) 3 ∧
    exec (.setPower v) s = .next { s with pwr := p, rspStatus := .ok, rspA := 0, rspB := 0 })

/-- SET_OUTEN (42_commands.md R184): bit 0 of operand A is stored in `out_en` (decision D25); nothing else but the
response changes, and no word is emitted. It completes in every state. -/
def Obligations.SetOutEnStoresBitZero : Prop :=
  (∀ (a b : BitVec 64) (s : State),
    performFrame ⟨0x00000004#32, a, b⟩ s = exec (.setOutEn (decide (a.toNat % 2 = 1))) s) ∧
  (∀ (en : Bool) (s : State),
    exec (.setOutEn en) s = .next { s with outEn := en, rspStatus := .ok, rspA := 0, rspB := 0 })

/-- SET_CP (42_commands.md R185): operand A as a signed integer, clamped to 0..15 (decision D24), is stored in `cp`;
nothing else but the response changes, and no word is emitted. It completes in every state. -/
def Obligations.SetCpClampsAndStores : Prop :=
  (∀ (a b : BitVec 64) (s : State), performFrame ⟨0x00000005#32, a, b⟩ s = exec (.setCp a) s) ∧
  (∀ (v : BitVec 64) (s : State), ∃ c : BitVec 4, (c.toNat : Int) = min (max v.toInt 0) 15 ∧
    exec (.setCp v) s = .next { s with cp := c, rspStatus := .ok, rspA := 0, rspB := 0 })

/-- GET_FREQ (42_commands.md R186): the response is (OK, `last_freq`, 0), whatever the operands; nothing else changes.
It completes in every state. -/
def Obligations.GetFreqAnswersLastTarget : Prop :=
  (∀ (a b : BitVec 64) (s : State), performFrame ⟨0x00000006#32, a, b⟩ s = exec .getFreq s) ∧
  (∀ s : State, exec .getFreq s = .next { s with rspStatus := .ok, rspA := s.lastFreq, rspB := 0 })

/-- GET_PFD (42_commands.md R187; 40_planner.md R101): the response is OK with the exact, unreduced pair of the current
reference registers (decision D27), whatever the operands; nothing else changes. It completes in every state. -/
def Obligations.GetPfdAnswersTheExactPair : Prop :=
  (∀ (a b : BitVec 64) (s : State), performFrame ⟨0x00000007#32, a, b⟩ s = exec .getPfd s) ∧
  (∀ s : State, ∃ num den : BitVec 64,
    num.toNat = s.refHz.toNat * (1 + s.dbl.toNat) ∧ den.toNat = s.rCnt.toNat * (1 + s.div2.toNat) ∧
    exec .getPfd s = .next { s with rspStatus := .ok, rspA := num, rspB := den })

/-- The nine reserved opcodes (42_commands.md R188, decision D5): the response is (BadCommand, 0, 0) and nothing else
changes, in every state. -/
def Obligations.ReservedOpcodesAnswerBadCommand : Prop :=
  ∀ (i : Instr) (s : State),
    i ∈ [Instr.reserved0, .reserved8, .reserved9, .reservedA, .reservedB, .reservedC, .reservedD, .reservedE,
      .reservedF] →
    exec i s = .next { s with rspStatus := .badCommand, rspA := 0, rspB := 0 }

/-- SET_FREQ with a target outside 35 to 4400 MHz answers OutOfRange in every session state, and changes nothing but the
response; both ends of the range are inside it: a target in 35 to 4400 MHz is never answered with OutOfRange
(40_planner.md R102; 60_exceptions.md R224). -/
def Obligations.TargetOutOfRangeIsRejected : Prop :=
  ∀ (f sp : BitVec 64) (s : State),
    (f.toNat < 35000000 ∨ 4400000000 < f.toNat →
      exec (.setFreq f sp) s = .next { s with rspStatus := .outOfRange, rspA := 0, rspB := 0 }) ∧
    (35000000 ≤ f.toNat → f.toNat ≤ 4400000000 →
      ∃ t, exec (.setFreq f sp) s = .next t ∧ t.rspStatus ≠ .outOfRange)

/-- SET_FREQ with an acceptable target in UNCONFIGURED, or with a phase-detector numerator of 0, answers PlanInfeasible
and changes nothing but the response (40_planner.md R103, decisions D12 and D13 of the spec). In every other state it is
answered with OK: this clause rests on R108, which the spec derives. -/
def Obligations.UnconfiguredReferenceIsInfeasible : Prop :=
  ∀ (f sp : BitVec 64) (s : State), LegalTarget f.toNat →
    (s.sess = .unconfigured ∨ s.refHz.toNat * (1 + s.dbl.toNat) = 0 →
      exec (.setFreq f sp) s = .next { s with rspStatus := .planInfeasible, rspA := 0, rspB := 0 }) ∧
    (s.sess ≠ .unconfigured → s.refHz.toNat * (1 + s.dbl.toNat) ≠ 0 →
      ∃ t, exec (.setFreq f sp) s = .next t ∧ t.rspStatus = .ok)

/-- The whole of SET_FREQ (42_commands.md R182). A target outside 35 to 4400 MHz is answered with OutOfRange, an
acceptable one without a configured, nonzero reference with PlanInfeasible, and nothing else changes. For a target in 35
to 4400 MHz and a configured, nonzero reference it completes, and there are a select code, a feedback integer and
fraction and a modulus, fixed by the arithmetic of 40_planner.md R101 to R117, such that the six words, each given by its
value (41_encoder.md R142 to R147), are appended to `bus` in the order R5 to R0 and recorded in `img`, `last_freq` is the
target, the session is LOCKED, the response is OK, and nothing else changes. That it completes there, and that the carry leaves
the fraction below the modulus, rest on R108 and R115, which the spec derives. Ties up, the modulus clamp, the default
spacing, the truncation and the fixed bits are decisions D7, D8, D9 and D17 to D22 of the spec. -/
def Obligations.SetFreqPlansEncodesAndLocks : Prop :=
  ∀ (f sp : BitVec 64) (s : State),
    (¬ LegalTarget f.toNat →
      exec (.setFreq f sp) s = .next { s with rspStatus := .outOfRange, rspA := 0, rspB := 0 }) ∧
    (LegalTarget f.toNat → s.sess = .unconfigured ∨ s.refHz = 0 →
      exec (.setFreq f sp) s = .next { s with rspStatus := .planInfeasible, rspA := 0, rspB := 0 }) ∧
    (LegalTarget f.toNat → s.sess ≠ .unconfigured → s.refHz ≠ 0 →
      ∃ (code nint nfrac modulus : Nat) (w0 w1 w2 w3 w4 w5 : Word),
        let num := s.refHz.toNat * (1 + s.dbl.toNat)
        let den := s.rCnt.toNat * (1 + s.div2.toNat)
        let spacing := if sp = 0 then 10000 else sp.toNat
        let t := f.toNat * 2 ^ code * den
        (code ≤ 6 ∧ 2200000000 ≤ f.toNat * 2 ^ code ∧ (code ≠ 0 → f.toNat * 2 ^ code < 4400000000)) ∧
        modulus = min (max ((2 * num + den * spacing) / (2 * (den * spacing))) 1) 4095 ∧
        nfrac < modulus ∧
        nint * modulus + nfrac = t / num * modulus + (2 * (t % num * modulus) + num) / (2 * num) ∧
        w0.toNat = nint % 65536 * 2 ^ 15 + nfrac * 2 ^ 3 ∧
        w1.toNat = (if 75 ≤ nint then 2 ^ 27 else 0) + 2 ^ 15 + modulus * 2 ^ 3 + 1 ∧
        w2.toNat = s.dbl.toNat * 2 ^ 25 + s.div2.toNat * 2 ^ 24 + s.rCnt.toNat * 2 ^ 14 + s.cp.toNat * 2 ^ 9 +
          (if nfrac = 0 then 2 ^ 8 + 2 ^ 7 else 0) + 2 ^ 6 + 2 ∧
        w3 = 0x000004B3#32 ∧
        w4.toNat = code * 2 ^ 20 + 200 * 2 ^ 12 + s.outEn.toNat * 2 ^ 5 + s.pwr.toNat * 2 ^ 3 + 4 ∧
        w5 = 0x00580005#32 ∧
        exec (.setFreq f sp) s = .next { s with
          bus := s.bus ++ [w5, w4, w3, w2, w1, w0]
          img := ⟨some w0, some w1, some w2, some w3, some w4, some w5⟩
          lastFreq := f, sess := .locked, rspStatus := .ok, rspA := 0, rspB := 0 })

/-- The output rows of the table (30_encoding.md R79). Executing one is the emission of its word: the word is appended to
`bus` and recorded in its image entry (10_state.md R30, R33), and nothing else changes. That this is the meaning of a
row that no frame decodes to is the model's reading, notes/assumptions/4.md. -/
def Obligations.OutputRowsEmitTheirWord : Prop :=
  (∀ (nint : BitVec 16) (nfrac : BitVec 12) (s : State), ∃ w : Word,
    w.toNat = nint.toNat * 2 ^ 15 + nfrac.toNat * 2 ^ 3 ∧
    exec (.r0 nint nfrac) s = .next { s with bus := s.bus ++ [w], img := { s.img with r0 := some w } }) ∧
  (∀ (pre : Bool) (modulus : BitVec 12) (s : State), ∃ w : Word,
    w.toNat = pre.toNat * 2 ^ 27 + 2 ^ 15 + modulus.toNat * 2 ^ 3 + 1 ∧
    exec (.r1 pre modulus) s = .next { s with bus := s.bus ++ [w], img := { s.img with r1 := some w } }) ∧
  (∀ (d h : Bool) (r : BitVec 10) (c : BitVec 4) (l : Bool) (s : State), ∃ w : Word,
    w.toNat = d.toNat * 2 ^ 25 + h.toNat * 2 ^ 24 + r.toNat * 2 ^ 14 + c.toNat * 2 ^ 9 +
      l.toNat * (2 ^ 8 + 2 ^ 7) + 2 ^ 6 + 2 ∧
    exec (.r2 d h r c l) s = .next { s with bus := s.bus ++ [w], img := { s.img with r2 := some w } }) ∧
  (∀ s : State, exec .r3 s = .next { s with
    bus := s.bus ++ [0x000004B3#32], img := { s.img with r3 := some 0x000004B3#32 } }) ∧
  (∀ (code : BitVec 3) (en : Bool) (p : BitVec 2) (s : State), ∃ w : Word,
    w.toNat = code.toNat * 2 ^ 20 + 200 * 2 ^ 12 + en.toNat * 2 ^ 5 + p.toNat * 2 ^ 3 + 4 ∧
    exec (.r4 code en p) s = .next { s with bus := s.bus ++ [w], img := { s.img with r4 := some w } }) ∧
  (∀ s : State, exec .r5 s = .next { s with
    bus := s.bus ++ [0x00580005#32], img := { s.img with r5 := some 0x00580005#32 } })

/-- The write sequence of 41_encoder.md R150 is the six emissions of the table's rows, R5 first and R0 last, with the
fields of the plan and the static configuration. -/
def Obligations.WriteSequenceIsTheSixEmissions : Prop :=
  ∀ (p : Plan) (s : State), execAll (outputRows p s) s = .next (writeSeq (encodeWords p s) s)

/-! ## Rules about every command -/

/-- An error changes nothing but the response, whose result values are 0 (60_exceptions.md R224). -/
def Obligations.ErrorsChangeOnlyTheResponse : Prop :=
  ∀ (fr : Frame) (s t : State), performFrame fr s = .next t → t.rspStatus ≠ .ok →
    t = { s with rspStatus := t.rspStatus, rspA := 0, rspB := 0 }

/-- Which error a command reports, in the order of 60_exceptions.md R225: BadCommand, then OutOfRange, then
PlanInfeasible for UNCONFIGURED or a zero reference. The order is decision D14 of the spec. Everything else leaves OK:
for SET_FREQ because cause (c) does not occur (40_planner.md R108, which the spec derives), for the other commands by
42_commands.md R181 and R183 to R187. -/
def Obligations.StatusFollowsTheErrorPriority : Prop :=
  ∀ (fr : Frame) (s t : State), performFrame fr s = .next t →
    (IllFormed fr → t.rspStatus = .badCommand) ∧
    (fr.hdr = 0x00000002#32 → ¬ LegalTarget fr.a.toNat → t.rspStatus = .outOfRange) ∧
    (fr.hdr = 0x00000002#32 → LegalTarget fr.a.toNat → s.sess = .unconfigured ∨ s.refHz = 0 →
      t.rspStatus = .planInfeasible) ∧
    (fr.hdr = 0x00000002#32 → LegalTarget fr.a.toNat → s.sess ≠ .unconfigured → s.refHz ≠ 0 → t.rspStatus = .ok) ∧
    (¬ IllFormed fr → fr.hdr ≠ 0x00000002#32 → t.rspStatus = .ok)

/-- The session transitions of 42_commands.md R189: CFG_REF gives IDLE, a SET_FREQ that succeeds gives LOCKED, and every
other command or outcome leaves the session as it was; in UNCONFIGURED every SET_FREQ fails, with OutOfRange if the target
is out of range and PlanInfeasible if not (decision D12). -/
def Obligations.SessionTransitions : Prop :=
  ∀ (fr : Frame) (s t : State), performFrame fr s = .next t →
    (IsCfgRef fr → t.sess = .idle) ∧
    (IsSetFreq fr → t.rspStatus = .ok → s.sess ≠ .unconfigured ∧ t.sess = .locked) ∧
    (IsSetFreq fr → t.rspStatus ≠ .ok → t.sess = s.sess) ∧
    (IsSetFreq fr → s.sess = .unconfigured →
      t.rspStatus = (if 35000000 ≤ fr.a.toNat ∧ fr.a.toNat ≤ 4400000000 then .planInfeasible else .outOfRange)) ∧
    (¬ IsCfgRef fr → ¬ IsSetFreq fr → t.sess = s.sess)

/-- The access matrix of 10_state.md R40, which the spec derives: which command may change which element. The last
clause: no command touches the commands still presented (the model's own field). -/
def Obligations.OnlyTheNamedCommandWritesAnElement : Prop :=
  ∀ (fr : Frame) (s t : State), performFrame fr s = .next t →
    (¬ IsCfgRef fr → t.refHz = s.refHz ∧ t.rCnt = s.rCnt ∧ t.dbl = s.dbl ∧ t.div2 = s.div2) ∧
    (fr.hdr ≠ 0x00000003#32 → t.pwr = s.pwr) ∧
    (fr.hdr ≠ 0x00000004#32 → t.outEn = s.outEn) ∧
    (fr.hdr ≠ 0x00000005#32 → t.cp = s.cp) ∧
    (¬ (IsSetFreq fr ∧ t.rspStatus = .ok) → t.lastFreq = s.lastFreq ∧ t.img = s.img ∧ t.bus = s.bus) ∧
    t.port = s.port

/-- No command depends on the response of the one before it (10_state.md R32, decision D6). -/
def Obligations.ResponseIsNeverRead : Prop :=
  ∀ (fr : Frame) (s : State) (st : Status) (a b : BitVec 64),
    performFrame fr { s with rspStatus := st, rspA := a, rspB := b } = performFrame fr s

/-- No command reads the register image or the bus stream (10_state.md R30, R33): from two states that differ in them
alone, a command leaves two states that differ in them alone, appends the same words, and leaves the same image if it
wrote any word. -/
def Obligations.ImageAndBusAreNeverRead : Prop :=
  ∀ (fr : Frame) (s t : State) (m : Image) (ws : List Word), performFrame fr s = .next t →
    ∃ u new, performFrame fr { s with img := m, bus := ws } = .next u ∧
      u = { t with img := u.img, bus := u.bus } ∧ t.bus = s.bus ++ new ∧ u.bus = ws ++ new ∧
      (new = [] → t.img = s.img ∧ u.img = m) ∧ (new ≠ [] → u.img = t.img)

/-- The bus stream only grows, and only by the six words of one SET_FREQ at once, with the addresses 5, 4, 3, 2, 1, 0 in
this order (10_state.md R33; 20_memory.md R57; 41_encoder.md R150). -/
def Obligations.BusGrowsByWholeWriteSequences : Prop :=
  ∀ s t : State, step s = .next t →
    t.bus = s.bus ∨ ∃ w5 w4 w3 w2 w1 w0 : Word, t.bus = s.bus ++ [w5, w4, w3, w2, w1, w0] ∧
      [w5, w4, w3, w2, w1, w0].map (fun w => w.toNat % 8) = [5, 4, 3, 2, 1, 0]

/-- Repeating a successful SET_FREQ emits the same six words again and changes nothing else (20_memory.md R61, which the
spec derives; 42_commands.md R182). -/
def Obligations.RepeatedSetFreqEmitsTheSameWords : Prop :=
  ∀ (f sp : BitVec 64) (s t : State), exec (.setFreq f sp) s = .next t → t.rspStatus = .ok →
    ∃ ws : List Word, ws.length = 6 ∧ t.bus = s.bus ++ ws ∧
      exec (.setFreq f sp) t = .next { t with bus := t.bus ++ ws }

/-- The static settings reach the bus only at the next successful SET_FREQ, which carries their new values (41_encoder.md
R153, 70_reset_and_hazards.md R255, which the spec derives; decision D23): SET_POWER, SET_OUTEN and SET_CP emit nothing,
and the SET_FREQ after them emits R4 with the new power level in bits 4:3 or enable in bit 5, or R2 with the new
charge-pump code in bits 12:9. -/
def Obligations.StaticSettingsWaitForTheNextSetFreq : Prop :=
  ∀ (f sp : BitVec 64) (s t u : State), exec (.setFreq f sp) t = .next u → u.rspStatus = .ok →
    (∀ v, exec (.setPower v) s = .next t → t.bus = s.bus ∧
      ∃ w, u.img.r4 = some w ∧ w ∈ u.bus ∧ ((w.toNat / 2 ^ 3 % 4 : Nat) : Int) = min (max v.toInt 0) 3) ∧
    (∀ en, exec (.setOutEn en) s = .next t → t.bus = s.bus ∧
      ∃ w, u.img.r4 = some w ∧ w ∈ u.bus ∧ w.toNat / 2 ^ 5 % 2 = en.toNat) ∧
    (∀ v, exec (.setCp v) s = .next t → t.bus = s.bus ∧
      ∃ w, u.img.r2 = some w ∧ w ∈ u.bus ∧ ((w.toNat / 2 ^ 9 % 16 : Nat) : Int) = min (max v.toInt 0) 15)

/-- The session invariants of 42_commands.md R190, over every sequence of commands after reset. UNCONFIGURED: no CFG_REF
was performed. LOCKED: some SET_FREQ succeeded and no CFG_REF came after it. `last_freq` is not 0: some SET_FREQ
succeeded. -/
def Obligations.SessionRecordsTheHistory : Prop :=
  ∀ (frs : List Frame) (t : State) (rs : List Response), runFrames frs State.reset = .next (t, rs) →
    (t.sess = .unconfigured ↔ ∀ fr ∈ frs, ¬ IsCfgRef fr) ∧
    (t.sess = .locked ↔ ∃ n, SucceedsAt frs rs n ∧ ∀ m fr, n < m → frs[m]? = some fr → ¬ IsCfgRef fr) ∧
    (t.lastFreq ≠ 0 ↔ ∃ n, SucceedsAt frs rs n)

/-- Nothing is emitted, and no SET_FREQ succeeds, before a CFG_REF with a nonzero reference frequency
(70_reset_and_hazards.md R252, which the spec derives). -/
def Obligations.NothingIsEmittedBeforeAReference : Prop :=
  ∀ (frs : List Frame) (t : State) (rs : List Response), runFrames frs State.reset = .next (t, rs) →
    t.bus ≠ [] ∨ t.sess = .locked → ∃ fr ∈ frs, IsCfgRef fr ∧ fr.a.extractLsb' 0 32 ≠ 0

/-! ## The planner -/

/-- The divider selector (40_planner.md R105): the first row whose threshold the target meets. With c the number of
thresholds above the target, the divider is 2^c and the select code is c, 64 and 6 for the last row. -/
def Obligations.DividerIsTheFirstRowMet : Prop :=
  ∀ f : Nat,
    let c := ([2200000000, 1100000000, 550000000, 275000000, 137500000, 68750000].filter (f < ·)).length
    divSel f = (2 ^ c, c)

/-- For every accepted target the VCO frequency lies in the closed window 2200 to 4400 MHz, and below 4400 MHz on every
row but the first, so the VCO check cannot fail (40_planner.md R108, which the spec derives). -/
def Obligations.VcoIsLegalForEveryAcceptedTarget : Prop :=
  ∀ f : Nat, LegalTarget f →
    2200000000 ≤ f * (divSel f).1 ∧ f * (divSel f).1 ≤ 4400000000 ∧
    (f < 2200000000 → f * (divSel f).1 < 4400000000) ∧
    ∀ (sp : Nat) (s : State), s.sess ≠ .unconfigured → s.refHz ≠ 0 → ∃ p, plan f sp s = .ok p

/-- The modulus (40_planner.md R111, R112): f_PFD / spacing rounded to the nearest natural number, ties up, wherever
that lies in 1..4095; 4095 above and 1 below. Ties up and the lower clamp are decisions D7 and D8 of the spec. -/
def Obligations.ModulusIsTheClampedRounding : Prop :=
  ∀ num den sp : Nat, 0 < den → 0 < sp →
    (1 ≤ modConv num den sp ∧ modConv num den sp ≤ 4095) ∧
    (∀ m : Nat, 1 ≤ m → m ≤ 4095 → (2 * m - 1) * (den * sp) ≤ 2 * num → 2 * num < (2 * m + 1) * (den * sp) →
      modConv num den sp = m) ∧
    (8191 * (den * sp) ≤ 2 * num → modConv num den sp = 4095) ∧
    (2 * num < den * sp → modConv num den sp = 1)

/-- The carry (40_planner.md R114, R115). The fraction before it is at most the modulus; it is the modulus exactly when
the carry adds 1 to the integer and leaves the fraction 0; otherwise nothing changes; afterwards the fraction is below
the modulus. -/
def Obligations.CarryNormalisesTheFraction : Prop :=
  ∀ nint0 rem num modulus : Nat, rem < num → 0 < modulus →
    let nfrac0 := fracConv rem modulus num
    nfrac0 ≤ modulus ∧
    (nfrac0 = modulus → carry nint0 nfrac0 modulus = (nint0 + 1, 0)) ∧
    (nfrac0 < modulus → carry nint0 nfrac0 modulus = (nint0, nfrac0)) ∧
    (carry nint0 nfrac0 modulus).2 < modulus

/-- The prescaler and integer-N mode of a plan are decided by its feedback integer and fraction after the carry
(40_planner.md R116, R117; the use of the values after the carry is decision D16 of the spec). -/
def Obligations.PlanFlagsFollowTheCarriedValues : Prop :=
  ∀ (f sp : Nat) (s : State) (p : Plan), plan f sp s = .ok p →
    (p.pre = true ↔ 75 ≤ p.nint) ∧ (p.intn = true ↔ p.nfrac = 0)

/-- The planner reads the session and the reference registers alone (40_planner.md R122, R100). -/
def Obligations.PlannerReadsOnlyTheReference : Prop :=
  ∀ (f sp : Nat) (s t : State), t.sess = s.sess → t.refHz = s.refHz → t.rCnt = s.rCnt → t.dbl = s.dbl →
    t.div2 = s.div2 → plan f sp t = plan f sp s

/-- The ranges of a plan (40_planner.md R118) and that its values, but for the feedback integer, fit their fields, so
that no other field of a word is truncated (41_encoder.md R141). -/
def Obligations.PlanFitsItsFields : Prop :=
  ∀ (f sp : Nat) (s : State) (p : Plan), plan f sp s = .ok p →
    p.dv = 2 ^ p.code ∧ p.code ≤ 6 ∧ p.vco = f * p.dv ∧ 2200000000 ≤ p.vco ∧ p.vco ≤ 4400000000 ∧
    p.nfrac < p.modulus ∧ 1 ≤ p.modulus ∧ p.modulus ≤ 4095

/-- The output frequency a plan describes differs from the target by at most f_PFD / (2 * mod * dv) (40_planner.md R119,
which the spec derives). The premise on `r_cnt` is an invariant: it never holds 0 (10_state.md R23). -/
def Obligations.ReconstructionStaysWithinTheBound : Prop :=
  ∀ (f sp : Nat) (s : State) (p : Plan), RCountPositive s → plan f sp s = .ok p →
    |reconstruct (pfdHz s) p - (f : ℚ)| ≤ pfdHz s / (2 * p.modulus * p.dv)

/-- When the VCO frequency is an exact multiple of f_PFD, the plan is integer-N and describes the target exactly
(40_planner.md R119, which the spec derives). -/
def Obligations.ReconstructionIsExactOnTheGrid : Prop :=
  ∀ (f sp : Nat) (s : State) (p : Plan), RCountPositive s → plan f sp s = .ok p →
    (∃ k : Nat, (p.vco : ℚ) = k * pfdHz s) → p.intn = true ∧ reconstruct (pfdHz s) p = (f : ℚ)

/-- The widths of the planner's intermediate values for operands of 64 bits (40_planner.md R121, which the spec
derives). -/
def Obligations.IntermediateValuesHaveBoundedWidth : Prop :=
  ∀ (f sp : BitVec 64) (s : State) (p : Plan), RCountPositive s → plan f.toNat sp.toNat s = .ok p →
    pfdNum s < 2 ^ 33 ∧ 1 ≤ pfdDen s ∧ pfdDen s ≤ 2046 ∧ p.vco < 2 ^ 33 ∧ p.vco * pfdDen s < 2 ^ 44 ∧
    (feedbackInt p.vco (pfdNum s) (pfdDen s)).1 < 2 ^ 44 ∧ p.nint ≤ 2 ^ 44 ∧
    (feedbackInt p.vco (pfdNum s) (pfdDen s)).2 < 2 ^ 33 ∧
    (feedbackInt p.vco (pfdNum s) (pfdDen s)).2 * p.modulus < 2 ^ 45 ∧
    pfdDen s * effectiveSpacing sp.toNat < 2 ^ 75 ∧
    2 * pfdNum s + pfdDen s * effectiveSpacing sp.toNat < 2 ^ 77

/-! ## The encoder -/

/-- The six words, each by its value (41_encoder.md R142 to R147): every field at its place, truncated to its width.
Truncation (D17), unnamed bits 0 (D18) and the fixed bits D19 to D22 are the spec's decisions. -/
def Obligations.EncoderPacksTheSixWords : Prop :=
  ∀ (p : Plan) (s : State),
    (encodeWords p s).w0.toNat = p.nint % 2 ^ 16 * 2 ^ 15 + p.nfrac % 2 ^ 12 * 2 ^ 3 ∧
    (encodeWords p s).w1.toNat = p.pre.toNat * 2 ^ 27 + 2 ^ 15 + p.modulus % 2 ^ 12 * 2 ^ 3 + 1 ∧
    (encodeWords p s).w2.toNat = s.dbl.toNat * 2 ^ 25 + s.div2.toNat * 2 ^ 24 + s.rCnt.toNat * 2 ^ 14 +
      s.cp.toNat * 2 ^ 9 + p.intn.toNat * 2 ^ 8 + p.intn.toNat * 2 ^ 7 + 2 ^ 6 + 2 ∧
    (encodeWords p s).w3.toNat = 150 * 2 ^ 3 + 3 ∧
    (encodeWords p s).w4.toNat = p.code % 2 ^ 3 * 2 ^ 20 + 200 * 2 ^ 12 + s.outEn.toNat * 2 ^ 5 +
      s.pwr.toNat * 2 ^ 3 + 4 ∧
    (encodeWords p s).w5.toNat = 2 ^ 22 + 3 * 2 ^ 19 + 5

/-- The words the encoder makes, read by the strict reader of the bus stream (notes/assumptions/15.md), are the rows of
the opcode table with the plan's and the configuration's fields; for a plan of the planner, and `r_cnt` not 0, all six are
well-formed (41_encoder.md R141). -/
def Obligations.EmittedWordsReadBackAsTheirRows : Prop :=
  ∀ (p : Plan) (s : State),
    [(encodeWords p s).w5, (encodeWords p s).w4, (encodeWords p s).w3, (encodeWords p s).w2, (encodeWords p s).w1,
      (encodeWords p s).w0].map decodeOut = (outputRows p s).map .ok ∧
    (∀ f sp, plan f sp s = .ok p → RCountPositive s → ∀ i ∈ outputRows p s, i.wellFormed = true)

/-- Each word carries its register address in bits [2:0], for every plan and every state (41_encoder.md R149, which the
spec derives). -/
def Obligations.WordsCarryTheirAddresses : Prop :=
  ∀ (p : Plan) (s : State),
    (encodeWords p s).w0.toNat % 8 = 0 ∧ (encodeWords p s).w1.toNat % 8 = 1 ∧ (encodeWords p s).w2.toNat % 8 = 2 ∧
    (encodeWords p s).w3.toNat % 8 = 3 ∧ (encodeWords p s).w4.toNat % 8 = 4 ∧ (encodeWords p s).w5.toNat % 8 = 5

/-- Every bit the rules do not name is 0 (41_encoder.md R148, decision D18). -/
def Obligations.UnnamedBitsAreZero : Prop :=
  ∀ (p : Plan) (s : State),
    (encodeWords p s).w0.getLsbD 31 = false ∧
    (encodeWords p s).w1.extractLsb' 28 4 = 0 ∧ (encodeWords p s).w1.extractLsb' 16 11 = 0 ∧
    (encodeWords p s).w2.getLsbD 31 = false ∧
    (encodeWords p s).w3.extractLsb' 15 17 = 0 ∧
    (encodeWords p s).w4.extractLsb' 24 8 = 0 ∧
    (encodeWords p s).w5.extractLsb' 23 9 = 0 ∧ (encodeWords p s).w5.getLsbD 21 = false ∧
    (encodeWords p s).w5.extractLsb' 3 16 = 0

/-- In the word R2 of a plan the two lock-detect bits are set exactly when the fraction is 0, and are never apart
(41_encoder.md R151, which the spec derives; 40_planner.md R117). -/
def Obligations.LockDetectBitsMarkIntegerN : Prop :=
  ∀ (f sp : Nat) (s : State) (p : Plan), plan f sp s = .ok p →
    ((encodeWords p s).w2.getLsbD 7 = true ∧ (encodeWords p s).w2.getLsbD 8 = true ↔ p.nfrac = 0) ∧
    (encodeWords p s).w2.getLsbD 7 = (encodeWords p s).w2.getLsbD 8

/-- The feedback-select bit R4[23] is the same for every divider, every plan and every state: always divided
(41_encoder.md R152; its value 0 is decision D20 of the spec). -/
def Obligations.FeedbackSelectIsAlwaysDivided : Prop :=
  ∀ (p : Plan) (s : State), (encodeWords p s).w4.getLsbD 23 = false

/-! ## The wire and the text -/

/-- What the Bus Writer sends for a list of words (20_memory.md R55; 60_exceptions.md R236; 70_reset_and_hazards.md R257):
four bytes a word, the most significant first, whose value is the word, and a settling time of at least 5 microseconds a
word. It is a view of the bus stream, notes/assumptions/11.md. -/
def Obligations.WireCarriesTheWordsInOrder : Prop :=
  (∀ w : Word, ∃ b3 b2 b1 b0 : Byte, wordBytes w = [b3, b2, b1, b0] ∧
    w.toNat = ((b3.toNat * 256 + b2.toNat) * 256 + b1.toNat) * 256 + b0.toNat) ∧
  (∀ ws : List Word, eventBytes (transferAll ws) = ws.flatMap wordBytes ∧
    settleTotal (transferAll ws) = 5 * ws.length) ∧
  (∀ (w : Word) (k : Fin 32), (wordBits w)[k.val]? = some (w.getLsbD (31 - k.val)))

/-- A line the assembler accepts stands for one of the seven commands, and is written as a frame that is not ill-formed
(30_encoding.md R80, R81). -/
def Obligations.AssembledLinesAreCommands : Prop :=
  ∀ (line : List Char) (i : Instr), assembleLine line = .ok (some i) →
    ∃ fr, encode i = .command fr ∧ ¬ IllFormed fr ∧ decode fr = .ok i

/-- Lines of the spec's programs and examples assemble to the frames the spec writes beside them (30_encoding.md R80 to
R82; 95_test_vectors.md P1 to P4), and lines whose value is no whole hertz, does not fit or is no operand are rejected. -/
def Obligations.ProgramLinesAssembleToTheirFrames : Prop :=
  (∀ p ∈ [("CFG_REF 25MHz, 2, DBL", "00000001:00000000017D7840:0000000000010002"),
      ("SET_FREQ 433.92MHz, 10kHz", "00000002:0000000019DD1800:0000000000002710"),
      ("SET_FREQ 4400000001Hz ; above the range", "00000002:000000010642AC01:0000000000000000"),
      ("SET_CP -5", "00000005:FFFFFFFFFFFFFFFB:0000000000000000"),
      ("OUT_ON", "00000004:0000000000000001:0000000000000000"),
      ("GET_PFD", "00000007:0000000000000000:0000000000000000")],
    ∃ i fr, assembleLine p.1.toList = .ok (some i) ∧ encode i = .command fr ∧ spellFrame fr = p.2.toList) ∧
  assembleLine "SET_FREQ 0.5Hz".toList = .error .notWholeHertz ∧
  assembleLine "CFG_REF 25MHz, 1024".toList = .error .doesNotFit ∧
  assembleLine "SET_POWER high".toList = .error .badOperand ∧
  assembleLine "; a comment".toList = .ok none
end

