-- ==== Sys2Proof/Laws/Encoder.lean ====
section
/-! SUPPORT. Every word by its value: what a concatenation, a placed field and each output pattern is as a natural
number. Claims about bits follow from these by arithmetic. -/

namespace Sys2Proof.Machine

/-- A concatenation as a number. -/
theorem toNat_append_add {m n : Nat} (x : BitVec m) (y : BitVec n) :
    (x ++ y).toNat = x.toNat * 2 ^ n + y.toNat := by
  rw [BitVec.toNat_append, Nat.shiftLeft_eq, Nat.mul_comm, Nat.two_pow_add_eq_or_of_lt y.isLt]

/-- A bit as a number. -/
theorem toNat_ofBool_eq (b : Bool) : (BitVec.ofBool b).toNat = b.toNat := by
  cases b <;> rfl

/-- A single bit of a vector, by arithmetic. -/
theorem getLsbD_eq_decide {n : Nat} (x : BitVec n) (i : Nat) :
    x.getLsbD i = decide (x.toNat / 2 ^ i % 2 = 1) := by
  rw [← BitVec.testBit_toNat, Nat.testBit_eq_decide_div_mod_eq]

/-- A field of a vector, by arithmetic. -/
theorem toNat_field {n : Nat} (x : BitVec n) (lo len : Nat) :
    (x.extractLsb' lo len).toNat = x.toNat / 2 ^ lo % 2 ^ len := by
  rw [BitVec.extractLsb'_toNat, Nat.shiftRight_eq_div_pow]

theorem r0Word_toNat (nint : BitVec 16) (nfrac : BitVec 12) :
    (r0Word nint nfrac).toNat = nint.toNat * 2 ^ 15 + nfrac.toNat * 2 ^ 3 := by
  simp only [r0Word, toNat_append_add, BitVec.toNat_ofNat]
  omega

theorem r1Word_toNat (pre : Bool) (modulus : BitVec 12) :
    (r1Word pre modulus).toNat = pre.toNat * 2 ^ 27 + 2 ^ 15 + modulus.toNat * 2 ^ 3 + 1 := by
  simp only [r1Word, toNat_append_add, toNat_ofBool_eq, BitVec.toNat_ofNat]
  omega

theorem r2Word_toNat (d h : Bool) (r : BitVec 10) (c : BitVec 4) (l : Bool) :
    (r2Word d h r c l).toNat = d.toNat * 2 ^ 25 + h.toNat * 2 ^ 24 + r.toNat * 2 ^ 14 + c.toNat * 2 ^ 9
      + l.toNat * 2 ^ 8 + l.toNat * 2 ^ 7 + 2 ^ 6 + 2 := by
  simp only [r2Word, toNat_append_add, toNat_ofBool_eq, BitVec.toNat_ofNat]
  omega

theorem r4Word_toNat (code : BitVec 3) (en : Bool) (pwr : BitVec 2) :
    (r4Word code en pwr).toNat = code.toNat * 2 ^ 20 + 200 * 2 ^ 12 + en.toNat * 2 ^ 5 + pwr.toNat * 2 ^ 3 + 4 := by
  simp only [r4Word, toNat_append_add, toNat_ofBool_eq, BitVec.toNat_ofNat]
  omega

/-- A placed field as a number: its low k bits, p places up (41_encoder.md R141). -/
theorem place_toNat (v p k : Nat) (h : p + k ≤ 32) : (place v p k).toNat = v % 2 ^ k * 2 ^ p := by
  have hlt : v % 2 ^ k * 2 ^ p < 2 ^ 32 :=
    calc v % 2 ^ k * 2 ^ p < 2 ^ k * 2 ^ p := Nat.mul_lt_mul_of_pos_right (Nat.mod_lt _ (by positivity)) (by positivity)
      _ = 2 ^ (p + k) := by rw [← Nat.pow_add, Nat.add_comm]
      _ ≤ 2 ^ 32 := Nat.pow_le_pow_right (by decide) h
  have hk : v % 2 ^ k < 2 ^ 32 :=
    lt_of_lt_of_le (Nat.mod_lt _ (by positivity)) (Nat.pow_le_pow_right (by decide) (by omega))
  rw [place, BitVec.toNat_shiftLeft, BitVec.toNat_setWidth, BitVec.toNat_ofNat, Nat.mod_eq_of_lt hk,
    Nat.shiftLeft_eq, Nat.mod_eq_of_lt hlt]

/-- Two words whose set bits lie in disjoint parts: OR is addition. -/
theorem toNat_or_add (x y : Word) (p : Nat) (hx : x.toNat % 2 ^ p = 0) (hy : y.toNat < 2 ^ p) :
    (x ||| y).toNat = x.toNat + y.toNat := by
  rw [BitVec.toNat_or]
  obtain ⟨k, hk⟩ := Nat.dvd_of_mod_eq_zero hx
  rw [hk, ← Nat.two_pow_add_eq_or_of_lt hy]

end Sys2Proof.Machine
end

