-- ==== Sys2Proof/Laws/Decode.lean ====
section
/-! SUPPORT. The frame decoder, said once: which headers it rejects, and which opcode it reads (30_encoding.md R71). -/

namespace Sys2Proof

/-- The reserved header bits are 0 exactly when the header is below 16. -/
theorem headerReserved_eq_zero_iff (h : BitVec 32) : headerReserved h = 0#28 ↔ h.toNat < 16 := by
  rw [headerReserved, ← BitVec.toNat_inj, Machine.toNat_field, BitVec.toNat_ofNat]
  have := h.isLt
  omega

theorem headerOpcode_toNat (h : BitVec 32) : (headerOpcode h).toNat = h.toNat % 16 := by
  rw [headerOpcode, Machine.toNat_field]
  omega

/-- A frame whose reserved header bits are 0 decodes by its opcode. -/
theorem decode_ok (fr : Frame) (h : headerReserved fr.hdr = 0#28) :
    decode fr = .ok (decodeOpcode (headerOpcode fr.hdr) fr.a fr.b) := by
  rw [decode, if_pos h]

/-- A frame whose reserved header bits are not 0 is rejected by name (30_encoding.md R71). -/
theorem decode_reject (fr : Frame) (h : headerReserved fr.hdr ≠ 0#28) :
    decode fr = .error (.reservedHeader (headerReserved fr.hdr)) := by
  rw [decode, if_neg h]

/-- The opcode map (30_encoding.md R72), for a header below 16 given as a number. -/
theorem decode_hdr (fr : Frame) (n : Nat) (hn : n < 16) (h : fr.hdr.toNat = n) :
    decode fr = .ok (decodeOpcode (BitVec.ofNat 4 n) fr.a fr.b) := by
  rw [decode_ok fr ((headerReserved_eq_zero_iff _).2 (by omega))]
  congr 2
  apply BitVec.eq_of_toNat_eq
  rw [headerOpcode_toNat, BitVec.toNat_ofNat]
  omega

end Sys2Proof
end

