-- ==== Sys2Proof/Laws/State.lean ====
section
/-! SUPPORT. One lemma for each field and each state update: what the update leaves in the field. -/

namespace Sys2Proof.Machine

@[simp] theorem respond_sess (st : Status) (a b : BitVec 64) (s : State) : (respond st a b s).sess = s.sess := rfl
@[simp] theorem respond_refHz (st : Status) (a b : BitVec 64) (s : State) : (respond st a b s).refHz = s.refHz := rfl
@[simp] theorem respond_rCnt (st : Status) (a b : BitVec 64) (s : State) : (respond st a b s).rCnt = s.rCnt := rfl
@[simp] theorem respond_dbl (st : Status) (a b : BitVec 64) (s : State) : (respond st a b s).dbl = s.dbl := rfl
@[simp] theorem respond_div2 (st : Status) (a b : BitVec 64) (s : State) : (respond st a b s).div2 = s.div2 := rfl
@[simp] theorem respond_pwr (st : Status) (a b : BitVec 64) (s : State) : (respond st a b s).pwr = s.pwr := rfl
@[simp] theorem respond_outEn (st : Status) (a b : BitVec 64) (s : State) : (respond st a b s).outEn = s.outEn := rfl
@[simp] theorem respond_cp (st : Status) (a b : BitVec 64) (s : State) : (respond st a b s).cp = s.cp := rfl
@[simp] theorem respond_lastFreq (st : Status) (a b : BitVec 64) (s : State) : (respond st a b s).lastFreq = s.lastFreq := rfl
@[simp] theorem respond_img (st : Status) (a b : BitVec 64) (s : State) : (respond st a b s).img = s.img := rfl
@[simp] theorem respond_rspStatus (st : Status) (a b : BitVec 64) (s : State) : (respond st a b s).rspStatus = st := rfl
@[simp] theorem respond_rspA (st : Status) (a b : BitVec 64) (s : State) : (respond st a b s).rspA = a := rfl
@[simp] theorem respond_rspB (st : Status) (a b : BitVec 64) (s : State) : (respond st a b s).rspB = b := rfl
@[simp] theorem respond_bus (st : Status) (a b : BitVec 64) (s : State) : (respond st a b s).bus = s.bus := rfl
@[simp] theorem respond_port (st : Status) (a b : BitVec 64) (s : State) : (respond st a b s).port = s.port := rfl

@[simp] theorem raiseError_sess (e : Error) (s : State) : (raiseError e s).sess = s.sess := rfl
@[simp] theorem raiseError_refHz (e : Error) (s : State) : (raiseError e s).refHz = s.refHz := rfl
@[simp] theorem raiseError_rCnt (e : Error) (s : State) : (raiseError e s).rCnt = s.rCnt := rfl
@[simp] theorem raiseError_dbl (e : Error) (s : State) : (raiseError e s).dbl = s.dbl := rfl
@[simp] theorem raiseError_div2 (e : Error) (s : State) : (raiseError e s).div2 = s.div2 := rfl
@[simp] theorem raiseError_pwr (e : Error) (s : State) : (raiseError e s).pwr = s.pwr := rfl
@[simp] theorem raiseError_outEn (e : Error) (s : State) : (raiseError e s).outEn = s.outEn := rfl
@[simp] theorem raiseError_cp (e : Error) (s : State) : (raiseError e s).cp = s.cp := rfl
@[simp] theorem raiseError_lastFreq (e : Error) (s : State) : (raiseError e s).lastFreq = s.lastFreq := rfl
@[simp] theorem raiseError_img (e : Error) (s : State) : (raiseError e s).img = s.img := rfl
@[simp] theorem raiseError_rspStatus (e : Error) (s : State) : (raiseError e s).rspStatus = e.status := rfl
@[simp] theorem raiseError_rspA (e : Error) (s : State) : (raiseError e s).rspA = 0 := rfl
@[simp] theorem raiseError_rspB (e : Error) (s : State) : (raiseError e s).rspB = 0 := rfl
@[simp] theorem raiseError_bus (e : Error) (s : State) : (raiseError e s).bus = s.bus := rfl
@[simp] theorem raiseError_port (e : Error) (s : State) : (raiseError e s).port = s.port := rfl

@[simp] theorem busEmit_sess (w : Word) (s : State) : (busEmit w s).sess = s.sess := rfl
@[simp] theorem busEmit_refHz (w : Word) (s : State) : (busEmit w s).refHz = s.refHz := rfl
@[simp] theorem busEmit_rCnt (w : Word) (s : State) : (busEmit w s).rCnt = s.rCnt := rfl
@[simp] theorem busEmit_dbl (w : Word) (s : State) : (busEmit w s).dbl = s.dbl := rfl
@[simp] theorem busEmit_div2 (w : Word) (s : State) : (busEmit w s).div2 = s.div2 := rfl
@[simp] theorem busEmit_pwr (w : Word) (s : State) : (busEmit w s).pwr = s.pwr := rfl
@[simp] theorem busEmit_outEn (w : Word) (s : State) : (busEmit w s).outEn = s.outEn := rfl
@[simp] theorem busEmit_cp (w : Word) (s : State) : (busEmit w s).cp = s.cp := rfl
@[simp] theorem busEmit_lastFreq (w : Word) (s : State) : (busEmit w s).lastFreq = s.lastFreq := rfl
@[simp] theorem busEmit_img (w : Word) (s : State) : (busEmit w s).img = s.img := rfl
@[simp] theorem busEmit_rspStatus (w : Word) (s : State) : (busEmit w s).rspStatus = s.rspStatus := rfl
@[simp] theorem busEmit_rspA (w : Word) (s : State) : (busEmit w s).rspA = s.rspA := rfl
@[simp] theorem busEmit_rspB (w : Word) (s : State) : (busEmit w s).rspB = s.rspB := rfl
@[simp] theorem busEmit_bus (w : Word) (s : State) : (busEmit w s).bus = s.bus ++ [w] := rfl
@[simp] theorem busEmit_port (w : Word) (s : State) : (busEmit w s).port = s.port := rfl

@[simp] theorem emitRegister_sess (i : Fin 6) (w : Word) (s : State) : (emitRegister i w s).sess = s.sess := rfl
@[simp] theorem emitRegister_refHz (i : Fin 6) (w : Word) (s : State) : (emitRegister i w s).refHz = s.refHz := rfl
@[simp] theorem emitRegister_rCnt (i : Fin 6) (w : Word) (s : State) : (emitRegister i w s).rCnt = s.rCnt := rfl
@[simp] theorem emitRegister_dbl (i : Fin 6) (w : Word) (s : State) : (emitRegister i w s).dbl = s.dbl := rfl
@[simp] theorem emitRegister_div2 (i : Fin 6) (w : Word) (s : State) : (emitRegister i w s).div2 = s.div2 := rfl
@[simp] theorem emitRegister_pwr (i : Fin 6) (w : Word) (s : State) : (emitRegister i w s).pwr = s.pwr := rfl
@[simp] theorem emitRegister_outEn (i : Fin 6) (w : Word) (s : State) : (emitRegister i w s).outEn = s.outEn := rfl
@[simp] theorem emitRegister_cp (i : Fin 6) (w : Word) (s : State) : (emitRegister i w s).cp = s.cp := rfl
@[simp] theorem emitRegister_lastFreq (i : Fin 6) (w : Word) (s : State) : (emitRegister i w s).lastFreq = s.lastFreq := rfl
@[simp] theorem emitRegister_img (i : Fin 6) (w : Word) (s : State) : (emitRegister i w s).img = s.img.set i w := rfl
@[simp] theorem emitRegister_rspStatus (i : Fin 6) (w : Word) (s : State) : (emitRegister i w s).rspStatus = s.rspStatus := rfl
@[simp] theorem emitRegister_rspA (i : Fin 6) (w : Word) (s : State) : (emitRegister i w s).rspA = s.rspA := rfl
@[simp] theorem emitRegister_rspB (i : Fin 6) (w : Word) (s : State) : (emitRegister i w s).rspB = s.rspB := rfl
@[simp] theorem emitRegister_bus (i : Fin 6) (w : Word) (s : State) : (emitRegister i w s).bus = s.bus ++ [w] := rfl
@[simp] theorem emitRegister_port (i : Fin 6) (w : Word) (s : State) : (emitRegister i w s).port = s.port := rfl

@[simp] theorem writeSeq_sess (ws : Words) (s : State) : (writeSeq ws s).sess = s.sess := rfl
@[simp] theorem writeSeq_refHz (ws : Words) (s : State) : (writeSeq ws s).refHz = s.refHz := rfl
@[simp] theorem writeSeq_rCnt (ws : Words) (s : State) : (writeSeq ws s).rCnt = s.rCnt := rfl
@[simp] theorem writeSeq_dbl (ws : Words) (s : State) : (writeSeq ws s).dbl = s.dbl := rfl
@[simp] theorem writeSeq_div2 (ws : Words) (s : State) : (writeSeq ws s).div2 = s.div2 := rfl
@[simp] theorem writeSeq_pwr (ws : Words) (s : State) : (writeSeq ws s).pwr = s.pwr := rfl
@[simp] theorem writeSeq_outEn (ws : Words) (s : State) : (writeSeq ws s).outEn = s.outEn := rfl
@[simp] theorem writeSeq_cp (ws : Words) (s : State) : (writeSeq ws s).cp = s.cp := rfl
@[simp] theorem writeSeq_lastFreq (ws : Words) (s : State) : (writeSeq ws s).lastFreq = s.lastFreq := rfl
@[simp] theorem writeSeq_img (ws : Words) (s : State) : (writeSeq ws s).img = ⟨some ws.w0, some ws.w1, some ws.w2, some ws.w3, some ws.w4, some ws.w5⟩ := rfl
@[simp] theorem writeSeq_rspStatus (ws : Words) (s : State) : (writeSeq ws s).rspStatus = s.rspStatus := rfl
@[simp] theorem writeSeq_rspA (ws : Words) (s : State) : (writeSeq ws s).rspA = s.rspA := rfl
@[simp] theorem writeSeq_rspB (ws : Words) (s : State) : (writeSeq ws s).rspB = s.rspB := rfl
@[simp] theorem writeSeq_port (ws : Words) (s : State) : (writeSeq ws s).port = s.port := rfl

@[simp] theorem lockPlan_sess (f : BitVec 64) (p : Plan) (s : State) : (lockPlan f p s).sess = .locked := rfl
@[simp] theorem lockPlan_refHz (f : BitVec 64) (p : Plan) (s : State) : (lockPlan f p s).refHz = s.refHz := rfl
@[simp] theorem lockPlan_rCnt (f : BitVec 64) (p : Plan) (s : State) : (lockPlan f p s).rCnt = s.rCnt := rfl
@[simp] theorem lockPlan_dbl (f : BitVec 64) (p : Plan) (s : State) : (lockPlan f p s).dbl = s.dbl := rfl
@[simp] theorem lockPlan_div2 (f : BitVec 64) (p : Plan) (s : State) : (lockPlan f p s).div2 = s.div2 := rfl
@[simp] theorem lockPlan_pwr (f : BitVec 64) (p : Plan) (s : State) : (lockPlan f p s).pwr = s.pwr := rfl
@[simp] theorem lockPlan_outEn (f : BitVec 64) (p : Plan) (s : State) : (lockPlan f p s).outEn = s.outEn := rfl
@[simp] theorem lockPlan_cp (f : BitVec 64) (p : Plan) (s : State) : (lockPlan f p s).cp = s.cp := rfl
@[simp] theorem lockPlan_lastFreq (f : BitVec 64) (p : Plan) (s : State) : (lockPlan f p s).lastFreq = f := rfl
@[simp] theorem lockPlan_img (f : BitVec 64) (p : Plan) (s : State) : (lockPlan f p s).img = (writeSeq (encodeWords p s) s).img := rfl
@[simp] theorem lockPlan_rspStatus (f : BitVec 64) (p : Plan) (s : State) : (lockPlan f p s).rspStatus = .ok := rfl
@[simp] theorem lockPlan_rspA (f : BitVec 64) (p : Plan) (s : State) : (lockPlan f p s).rspA = 0 := rfl
@[simp] theorem lockPlan_rspB (f : BitVec 64) (p : Plan) (s : State) : (lockPlan f p s).rspB = 0 := rfl
@[simp] theorem lockPlan_port (f : BitVec 64) (p : Plan) (s : State) : (lockPlan f p s).port = s.port := rfl

@[simp] theorem present_sess (fr : Frame) (s : State) : (present fr s).sess = s.sess := rfl
@[simp] theorem present_refHz (fr : Frame) (s : State) : (present fr s).refHz = s.refHz := rfl
@[simp] theorem present_rCnt (fr : Frame) (s : State) : (present fr s).rCnt = s.rCnt := rfl
@[simp] theorem present_dbl (fr : Frame) (s : State) : (present fr s).dbl = s.dbl := rfl
@[simp] theorem present_div2 (fr : Frame) (s : State) : (present fr s).div2 = s.div2 := rfl
@[simp] theorem present_pwr (fr : Frame) (s : State) : (present fr s).pwr = s.pwr := rfl
@[simp] theorem present_outEn (fr : Frame) (s : State) : (present fr s).outEn = s.outEn := rfl
@[simp] theorem present_cp (fr : Frame) (s : State) : (present fr s).cp = s.cp := rfl
@[simp] theorem present_lastFreq (fr : Frame) (s : State) : (present fr s).lastFreq = s.lastFreq := rfl
@[simp] theorem present_img (fr : Frame) (s : State) : (present fr s).img = s.img := rfl
@[simp] theorem present_rspStatus (fr : Frame) (s : State) : (present fr s).rspStatus = s.rspStatus := rfl
@[simp] theorem present_rspA (fr : Frame) (s : State) : (present fr s).rspA = s.rspA := rfl
@[simp] theorem present_rspB (fr : Frame) (s : State) : (present fr s).rspB = s.rspB := rfl
@[simp] theorem present_bus (fr : Frame) (s : State) : (present fr s).bus = s.bus := rfl
@[simp] theorem present_port (fr : Frame) (s : State) : (present fr s).port = s.port ++ [fr] := rfl

@[simp] theorem presentNext_sess (fr : Frame) (s : State) : (presentNext fr s).sess = s.sess := rfl
@[simp] theorem presentNext_refHz (fr : Frame) (s : State) : (presentNext fr s).refHz = s.refHz := rfl
@[simp] theorem presentNext_rCnt (fr : Frame) (s : State) : (presentNext fr s).rCnt = s.rCnt := rfl
@[simp] theorem presentNext_dbl (fr : Frame) (s : State) : (presentNext fr s).dbl = s.dbl := rfl
@[simp] theorem presentNext_div2 (fr : Frame) (s : State) : (presentNext fr s).div2 = s.div2 := rfl
@[simp] theorem presentNext_pwr (fr : Frame) (s : State) : (presentNext fr s).pwr = s.pwr := rfl
@[simp] theorem presentNext_outEn (fr : Frame) (s : State) : (presentNext fr s).outEn = s.outEn := rfl
@[simp] theorem presentNext_cp (fr : Frame) (s : State) : (presentNext fr s).cp = s.cp := rfl
@[simp] theorem presentNext_lastFreq (fr : Frame) (s : State) : (presentNext fr s).lastFreq = s.lastFreq := rfl
@[simp] theorem presentNext_img (fr : Frame) (s : State) : (presentNext fr s).img = s.img := rfl
@[simp] theorem presentNext_rspStatus (fr : Frame) (s : State) : (presentNext fr s).rspStatus = s.rspStatus := rfl
@[simp] theorem presentNext_rspA (fr : Frame) (s : State) : (presentNext fr s).rspA = s.rspA := rfl
@[simp] theorem presentNext_rspB (fr : Frame) (s : State) : (presentNext fr s).rspB = s.rspB := rfl
@[simp] theorem presentNext_bus (fr : Frame) (s : State) : (presentNext fr s).bus = s.bus := rfl
@[simp] theorem presentNext_port (fr : Frame) (s : State) : (presentNext fr s).port = fr :: s.port := rfl

@[simp] theorem writeSeq_bus (ws : Words) (s : State) :
    (writeSeq ws s).bus = s.bus ++ [ws.w5, ws.w4, ws.w3, ws.w2, ws.w1, ws.w0] := rfl

@[simp] theorem lockPlan_bus (f : BitVec 64) (p : Plan) (s : State) :
    (lockPlan f p s).bus =
      s.bus ++ [encodeR5, encodeR4 p s, encodeR3, encodeR2 p s, encodeR1 p, encodeR0 p] := rfl

/-! The same for the values after reset (70_reset_and_hazards.md R250). -/

@[simp] theorem reset_sess : State.reset.sess = .unconfigured := rfl
@[simp] theorem reset_refHz : State.reset.refHz = 0 := rfl
@[simp] theorem reset_rCnt : State.reset.rCnt = 1 := rfl
@[simp] theorem reset_dbl : State.reset.dbl = false := rfl
@[simp] theorem reset_div2 : State.reset.div2 = false := rfl
@[simp] theorem reset_pwr : State.reset.pwr = 0 := rfl
@[simp] theorem reset_outEn : State.reset.outEn = false := rfl
@[simp] theorem reset_cp : State.reset.cp = 0 := rfl
@[simp] theorem reset_lastFreq : State.reset.lastFreq = 0 := rfl
@[simp] theorem reset_img : State.reset.img = Image.unwritten := rfl
@[simp] theorem reset_rspStatus : State.reset.rspStatus = .ok := rfl
@[simp] theorem reset_rspA : State.reset.rspA = 0 := rfl
@[simp] theorem reset_rspB : State.reset.rspB = 0 := rfl
@[simp] theorem reset_bus : State.reset.bus = [] := rfl
@[simp] theorem reset_port : State.reset.port = [] := rfl

end Sys2Proof.Machine
end

