-- ==== Sys2Proof/Laws/Ops.lean ====
section
/-! SUPPORT. What each shared operation can do, said once: rounding and clamping, the register image, the operands, the
command port. -/

namespace Sys2Proof.Machine

/-! Rounding and clamping (00_scope.md R14). -/

/-- The one property of `rhu`: the result m is the natural number with m - 1/2 <= n/d < m + 1/2. -/
theorem rhu_bounds (n d : Nat) (hd : 0 < d) :
    2 * d * rhu n d ≤ 2 * n + d ∧ 2 * n + d < 2 * d * (rhu n d + 1) := by
  unfold rhu
  constructor
  · exact Nat.mul_div_le _ _
  · have := Nat.lt_mul_div_succ (2 * n + d) (b := 2 * d) (by omega)
    exact this

theorem rhu_zero_left (d : Nat) (hd : 0 < d) : rhu 0 d = 0 := by
  unfold rhu
  exact Nat.div_eq_of_lt (by omega)

/-- A value that is not negative and at most m does not round above m. -/
theorem rhu_le {n d m : Nat} (hd : 0 < d) (h : n ≤ m * d) : rhu n d ≤ m := by
  have hb := (rhu_bounds n d hd).1
  by_contra hlt
  have h1 : m + 1 ≤ rhu n d := by omega
  have h2 : 2 * d * (m + 1) ≤ 2 * d * rhu n d := Nat.mul_le_mul_left _ h1
  have h3 : 2 * d * (m + 1) = 2 * (m * d) + 2 * d := by ring
  omega

theorem clamp_bounds (v lo hi : Int) (h : lo ≤ hi) : lo ≤ clamp v lo hi ∧ clamp v lo hi ≤ hi := by
  unfold clamp
  omega

theorem clamp_of_mem (v lo hi : Int) (h1 : lo ≤ v) (h2 : v ≤ hi) : clamp v lo hi = v := by
  unfold clamp
  omega

/-! Operands. -/

theorem rCounterOperand_ne_zero (r : BitVec 10) : rCounterOperand r ≠ 0 := by
  unfold rCounterOperand
  split
  · decide
  · assumption

theorem powerOperand_toNat (v : BitVec 64) : ((powerOperand v).toNat : Int) = clamp v.toInt 0 3 := by
  have h := clamp_bounds v.toInt 0 3 (by decide)
  show ((BitVec.ofInt 2 (clamp v.toInt 0 3)).toNat : Int) = _
  rw [BitVec.toNat_ofInt]
  omega

theorem chargePumpOperand_toNat (v : BitVec 64) : ((chargePumpOperand v).toNat : Int) = clamp v.toInt 0 15 := by
  have h := clamp_bounds v.toInt 0 15 (by decide)
  show ((BitVec.ofInt 4 (clamp v.toInt 0 15)).toNat : Int) = _
  rw [BitVec.toNat_ofInt]
  omega

/-! The register image (10_state.md R30). -/

@[simp] theorem Image.get_set_same (m : Image) (i : Fin 6) (w : Word) : (m.set i w).get i = some w := by
  fin_cases i <;> rfl

theorem Image.get_set_other (m : Image) (i j : Fin 6) (w : Word) (h : j ≠ i) : (m.set i w).get j = m.get j := by
  fin_cases i <;> fin_cases j <;> first | rfl | exact absurd rfl h

@[simp] theorem Image.get_unwritten (i : Fin 6) : Image.unwritten.get i = none := by
  fin_cases i <;> rfl

/-! Errors (60_exceptions.md R224). -/

theorem Status.code_injective {a b : Status} (h : a.code = b.code) : a = b := by
  cases a <;> cases b <;> first | rfl | exact absurd h (by decide)

/-! The command port. -/

@[simp] theorem fetch_nil (s : State) (h : s.port = []) : fetch s = none := by
  simp [fetch, h]

@[simp] theorem fetch_cons (s : State) (fr : Frame) (rest : List Frame) (h : s.port = fr :: rest) :
    fetch s = some (fr, { s with port := rest }) := by
  simp [fetch, h]

/-! The wire view (60_exceptions.md R236). -/

theorem eventBytes_append (es fs : List WireEvent) : eventBytes (es ++ fs) = eventBytes es ++ eventBytes fs := by
  induction es with
  | nil => rfl
  | cons e es ih => cases e <;> simp [eventBytes, ih]

theorem settleTotal_append (es fs : List WireEvent) : settleTotal (es ++ fs) = settleTotal es + settleTotal fs := by
  induction es with
  | nil => simp [settleTotal]
  | cons e es ih => cases e <;> simp [settleTotal, ih, Nat.add_assoc]

end Sys2Proof.Machine
end

