-- ==== Sys2Proof/Laws/PerInstr.lean ====
section
/-! SUPPORT. The family TableRow: what an instruction is written as has the "match" of its row of spec/opcode_table.json
under the row's "mask" (0xFFFFFFFF for a command's header, 0x7 for an output word). -/

namespace Sys2Proof.Laws.TableRow

/-- The "match" column of the opcode table. -/
def rowMatch : Instr → Word
  | .cfgRef .. => 0x00000001#32
  | .setFreq .. => 0x00000002#32
  | .setPower .. => 0x00000003#32
  | .setOutEn .. => 0x00000004#32
  | .setCp .. => 0x00000005#32
  | .getFreq => 0x00000006#32
  | .getPfd => 0x00000007#32
  | .reserved0 => 0x00000000#32
  | .reserved8 => 0x00000008#32
  | .reserved9 => 0x00000009#32
  | .reservedA => 0x0000000A#32
  | .reservedB => 0x0000000B#32
  | .reservedC => 0x0000000C#32
  | .reservedD => 0x0000000D#32
  | .reservedE => 0x0000000E#32
  | .reservedF => 0x0000000F#32
  | .r0 .. => 0x00000000#32
  | .r1 .. => 0x00000001#32
  | .r2 .. => 0x00000002#32
  | .r3 => 0x00000003#32
  | .r4 .. => 0x00000004#32
  | .r5 => 0x00000005#32

/-- The encoding of `i` matches its row of the opcode table. -/
def Statement (i : Instr) : Prop :=
  match encode i with
  | .command fr => i.isCommand = true ∧ fr.hdr &&& 0xFFFFFFFF#32 = rowMatch i
  | .output w => i.isCommand = false ∧ w &&& 0x00000007#32 = rowMatch i

/-- Masking a word to its low three bits gives its address. -/
theorem and_seven (w : Word) : w &&& 0x00000007#32 = (wordAddress w).setWidth 32 := by
  apply BitVec.eq_of_toNat_eq
  rw [BitVec.toNat_and, wordAddress, BitVec.toNat_setWidth, BitVec.extractLsb'_toNat]
  have h := Nat.and_two_pow_sub_one_eq_mod w.toNat 3
  have h' : w.toNat % 8 % 4294967296 = w.toNat % 8 := by omega
  simpa [h'] using h

/-- The low three bits of a pattern that ends in a 3-bit address. -/
theorem wordAddress_append (x : BitVec 29) (a : BitVec 3) : wordAddress (x ++ a) = a := by
  simp only [wordAddress]
  exact BitVec.extractLsb'_append_eq_right

theorem cfgRef (ref : BitVec 32) (r : BitVec 10) (dblop div2op : Bool) : Statement (.cfgRef ref r dblop div2op) := ⟨rfl, by simp [rowMatch]⟩

theorem setFreq (f s : BitVec 64) : Statement (.setFreq f s) := ⟨rfl, by simp [rowMatch]⟩

theorem setPower (v : BitVec 64) : Statement (.setPower v) := ⟨rfl, by simp [rowMatch]⟩

theorem setOutEn (en : Bool) : Statement (.setOutEn en) := ⟨rfl, by simp [rowMatch]⟩

theorem setCp (v : BitVec 64) : Statement (.setCp v) := ⟨rfl, by simp [rowMatch]⟩

theorem getFreq : Statement (.getFreq) := ⟨rfl, rfl⟩

theorem getPfd : Statement (.getPfd) := ⟨rfl, rfl⟩

theorem reserved0 : Statement (.reserved0) := ⟨rfl, rfl⟩

theorem reserved8 : Statement (.reserved8) := ⟨rfl, rfl⟩

theorem reserved9 : Statement (.reserved9) := ⟨rfl, rfl⟩

theorem reservedA : Statement (.reservedA) := ⟨rfl, rfl⟩

theorem reservedB : Statement (.reservedB) := ⟨rfl, rfl⟩

theorem reservedC : Statement (.reservedC) := ⟨rfl, rfl⟩

theorem reservedD : Statement (.reservedD) := ⟨rfl, rfl⟩

theorem reservedE : Statement (.reservedE) := ⟨rfl, rfl⟩

theorem reservedF : Statement (.reservedF) := ⟨rfl, rfl⟩

theorem r0 (nint : BitVec 16) (nfrac : BitVec 12) : Statement (.r0 nint nfrac) := by
  refine ⟨rfl, ?_⟩
  rw [and_seven]
  exact congrArg (BitVec.setWidth 32) (wordAddress_append _ _)

theorem r1 (pre : Bool) (modulus : BitVec 12) : Statement (.r1 pre modulus) := by
  refine ⟨rfl, ?_⟩
  rw [and_seven]
  exact congrArg (BitVec.setWidth 32) (wordAddress_append _ _)

theorem r2 (dbl div2 : Bool) (rCnt : BitVec 10) (cp : BitVec 4) (intn : Bool) : Statement (.r2 dbl div2 rCnt cp intn) := by
  refine ⟨rfl, ?_⟩
  rw [and_seven]
  exact congrArg (BitVec.setWidth 32) (wordAddress_append _ _)

theorem r3 : Statement (.r3) := ⟨rfl, rfl⟩

theorem r4 (code : BitVec 3) (outEn : Bool) (pwr : BitVec 2) : Statement (.r4 code outEn pwr) := by
  refine ⟨rfl, ?_⟩
  rw [and_seven]
  exact congrArg (BitVec.setWidth 32) (wordAddress_append _ _)

theorem r5 : Statement (.r5) := ⟨rfl, rfl⟩

end Sys2Proof.Laws.TableRow
end

