-- ==== Sys2Proof/Laws/Planner.lean ====
section
/-! SUPPORT. What the planner can answer, said once, and the ranges of its parts (40_planner.md). -/

namespace Sys2Proof.Machine

theorem inRange_iff (f : Nat) : inRange f = true ↔ 35000000 ≤ f ∧ f ≤ 4400000000 := by
  unfold inRange
  rw [Bool.and_eq_true, decide_eq_true_eq, decide_eq_true_eq]
  rfl

theorem configured_iff (s : State) : configured s = true ↔ s.sess ≠ .unconfigured ∧ s.refHz ≠ 0 := by
  have h : pfdNum s ≠ 0 ↔ s.refHz ≠ 0 := by
    unfold pfdNum
    rw [Nat.mul_ne_zero_iff, ← BitVec.toNat_ne_iff_ne]
    simp
  simp [configured, h]

theorem vcoLegal_iff (v : Nat) : vcoLegal v = true ↔ 2200000000 ≤ v ∧ v ≤ 4400000000 := by
  unfold vcoLegal
  rw [Bool.and_eq_true, decide_eq_true_eq, decide_eq_true_eq]
  rfl

/-- The divider selector, row by row (R104, R105). -/
theorem divSel_eq (f : Nat) :
    divSel f = if 2200000000 ≤ f then (1, 0) else if 1100000000 ≤ f then (2, 1) else if 550000000 ≤ f then (4, 2)
      else if 275000000 ≤ f then (8, 3) else if 137500000 ≤ f then (16, 4) else if 68750000 ≤ f then (32, 5)
      else (64, 6) := by
  simp [divSel, dividerTable, divSelFrom]

/-- For an accepted target the VCO frequency is legal, so the VCO check cannot fail (R108). -/
theorem vcoLegal_divSel (f : Nat) (h : inRange f = true) : vcoLegal (f * (divSel f).1) = true := by
  rw [inRange_iff] at h
  rw [vcoLegal_iff, divSel_eq]
  split_ifs <;> constructor <;> simp <;> omega

/-- The plan of an accepted target in a configured state. -/
def acceptedPlan (f sp : Nat) (s : State) : Plan :=
  planFields (divSel f).1 (divSel f).2 (f * (divSel f).1) (pfdNum s) (pfdDen s) (effectiveSpacing sp)

/-- The three answers of the planner: PlanInfeasible has `configured` as its one cause (R100, R102, R103, R108). -/
theorem plan_eq (f sp : Nat) (s : State) :
    plan f sp s = if inRange f = false then .error .outOfRange
      else if configured s = false then .error .planInfeasible
      else .ok (acceptedPlan f sp s) := by
  unfold plan acceptedPlan
  by_cases h : inRange f = true
  · simp [h, vcoLegal_divSel f h]
  · simp [h]

theorem plan_ok {f sp : Nat} {s : State} {p : Plan} (h : plan f sp s = .ok p) :
    inRange f = true ∧ configured s = true ∧ p = acceptedPlan f sp s := by
  rw [plan_eq] at h
  split_ifs at h with h1 h2
  simp at h h1 h2
  exact ⟨h1, h2, h.symm⟩

theorem plan_error {f sp : Nat} {s : State} {e : Error} (h : plan f sp s = .error e) :
    (inRange f = false ∧ e = .outOfRange) ∨ (inRange f = true ∧ configured s = false ∧ e = .planInfeasible) := by
  rw [plan_eq] at h
  split_ifs at h with h1 h2
  · exact .inl ⟨h1, by simpa using h.symm⟩
  · exact .inr ⟨by simpa using h1, h2, by simpa using h.symm⟩

/-- The modulus lies in 1..4095 (R112). -/
theorem modConv_bounds (num den sp : Nat) : 1 ≤ modConv num den sp ∧ modConv num den sp ≤ 4095 := by
  have h := clamp_bounds (modBeforeClamp num den sp : Int) 1 4095 (by decide)
  show 1 ≤ (clamp (modBeforeClamp num den sp : Int) 1 4095).toNat ∧
    (clamp (modBeforeClamp num den sp : Int) 1 4095).toNat ≤ 4095
  omega

/-- The fraction before the carry is at most the modulus (R115). -/
theorem fracConv_le {rem num : Nat} (modulus : Nat) (h : rem < num) : fracConv rem modulus num ≤ modulus := by
  unfold fracConv
  apply rhu_le (by omega)
  rw [Nat.mul_comm modulus num]
  exact Nat.mul_le_mul_right _ h.le

/-- After the carry the fraction is below the modulus, and integer and fraction together stand for the same number of
modulus steps (R114). -/
theorem carry_spec (nint0 nfrac0 : Nat) {modulus : Nat} (h : 0 < modulus) :
    (carry nint0 nfrac0 modulus).2 < modulus ∧
      (carry nint0 nfrac0 modulus).1 * modulus + (carry nint0 nfrac0 modulus).2 = nint0 * modulus + nfrac0 := by
  unfold carry
  split
  · refine ⟨Nat.mod_lt _ h, ?_⟩
    have := Nat.div_add_mod nfrac0 modulus
    dsimp only
    rw [Nat.add_mul, Nat.add_assoc, Nat.mul_comm (nfrac0 / modulus), this]
  · exact ⟨by omega, rfl⟩

/-- The select code is 0..6 (R104). -/
theorem divSel_code_le (f : Nat) : (divSel f).2 ≤ 6 := by
  rw [divSel_eq]
  split_ifs <;> simp

end Sys2Proof.Machine
end

