-- ==== Sys2Proof/Laws/Step.lean ====
section
/-! SUPPORT. What performing a frame and one step can do, said once. -/

namespace Sys2Proof.Machine

/-- A rejected frame is answered with BadCommand (42_commands.md R188). -/
theorem performFrame_reject (fr : Frame) (s : State) (h : headerReserved fr.hdr ≠ 0#28) :
    performFrame fr s = .next (raiseError .badCommand s) := by
  rw [performFrame, decode_reject fr h]
  rfl

/-- What a frame does, in every state: one of the seven commands, or the BadCommand response (42_commands.md R180,
R188). -/
theorem performFrame_cases (fr : Frame) :
    (∀ s, performFrame fr s = .next (raiseError .badCommand s)) ∨
    ∃ i, decode fr = .ok i ∧ (∀ s, performFrame fr s = exec i s) ∧
      ((∃ ref r d h, i = .cfgRef ref r d h) ∨ (∃ f sp, i = .setFreq f sp) ∨ (∃ v, i = .setPower v) ∨
        (∃ en, i = .setOutEn en) ∨ (∃ v, i = .setCp v) ∨ i = .getFreq ∨ i = .getPfd) := by
  by_cases hr : headerReserved fr.hdr = 0#28
  · have hd := decode_ok fr hr
    have hp : ∀ s, performFrame fr s = exec (decodeOpcode (headerOpcode fr.hdr) fr.a fr.b) s := by
      intro s
      simp only [performFrame, hd]
    simp only [hp, hd]
    unfold decodeOpcode
    split
    · exact .inl fun s => rfl
    · exact .inr ⟨_, rfl, fun s => rfl, .inl ⟨_, _, _, _, rfl⟩⟩
    · exact .inr ⟨_, rfl, fun s => rfl, .inr (.inl ⟨_, _, rfl⟩)⟩
    · exact .inr ⟨_, rfl, fun s => rfl, .inr (.inr (.inl ⟨_, rfl⟩))⟩
    · exact .inr ⟨_, rfl, fun s => rfl, .inr (.inr (.inr (.inl ⟨_, rfl⟩)))⟩
    · exact .inr ⟨_, rfl, fun s => rfl, .inr (.inr (.inr (.inr (.inl ⟨_, rfl⟩))))⟩
    · exact .inr ⟨_, rfl, fun s => rfl, .inr (.inr (.inr (.inr (.inr (.inl rfl)))))⟩
    · exact .inr ⟨_, rfl, fun s => rfl, .inr (.inr (.inr (.inr (.inr (.inr rfl)))))⟩
    all_goals exact .inl fun s => rfl
  · exact .inl fun s => performFrame_reject fr s hr

/-- SET_FREQ: the response alone, or the whole effect of a successful plan (42_commands.md R182). -/
theorem execSetFreq_cases (f sp : BitVec 64) (s : State) :
    (∃ e, plan f.toNat sp.toNat s = .error e ∧ execSetFreq f sp s = .next (raiseError e s)) ∨
    (∃ p, plan f.toNat sp.toNat s = .ok p ∧ execSetFreq f sp s = .next (lockPlan f p s)) := by
  unfold execSetFreq
  cases h : plan f.toNat sp.toNat s with
  | error e => exact .inl ⟨e, rfl, rfl⟩
  | ok p => exact .inr ⟨p, rfl, rfl⟩

/-- What a frame can leave: an error response, a successful SET_FREQ, or one of the six commands that cannot fail. -/
theorem performFrame_next (fr : Frame) (s : State) :
    ∃ t, performFrame fr s = .next t ∧
      ((∃ e, t = raiseError e s) ∨
       (∃ f sp p, decode fr = .ok (.setFreq f sp) ∧ plan f.toNat sp.toNat s = .ok p ∧ t = lockPlan f p s) ∨
       (∃ ref r d h, decode fr = .ok (.cfgRef ref r d h) ∧
          t = respond .ok 0 0 { s with refHz := ref, rCnt := rCounterOperand r, dbl := d, div2 := h, sess := .idle }) ∨
       (∃ v, decode fr = .ok (.setPower v) ∧ t = respond .ok 0 0 { s with pwr := powerOperand v }) ∨
       (∃ en, decode fr = .ok (.setOutEn en) ∧ t = respond .ok 0 0 { s with outEn := en }) ∨
       (∃ v, decode fr = .ok (.setCp v) ∧ t = respond .ok 0 0 { s with cp := chargePumpOperand v }) ∨
       (decode fr = .ok .getFreq ∧ t = respond .ok s.lastFreq 0 s) ∨
       (decode fr = .ok .getPfd ∧ t = respond .ok (BitVec.ofNat 64 (pfdNum s)) (BitVec.ofNat 64 (pfdDen s)) s)) := by
  rcases performFrame_cases fr with h | ⟨i, hd, hp, hi⟩
  · exact ⟨_, h s, .inl ⟨_, rfl⟩⟩
  · rw [hp s]
    rcases hi with ⟨ref, r, d, h, rfl⟩ | ⟨f, sp, rfl⟩ | ⟨v, rfl⟩ | ⟨en, rfl⟩ | ⟨v, rfl⟩ | rfl | rfl
    · exact ⟨_, rfl, .inr (.inr (.inl ⟨ref, r, d, h, hd, rfl⟩))⟩
    · rcases execSetFreq_cases f sp s with ⟨e, _, he⟩ | ⟨p, hpl, hn⟩
      · exact ⟨_, he, .inl ⟨e, rfl⟩⟩
      · exact ⟨_, hn, .inr (.inl ⟨f, sp, p, hd, hpl, rfl⟩)⟩
    · exact ⟨_, rfl, .inr (.inr (.inr (.inl ⟨v, hd, rfl⟩)))⟩
    · exact ⟨_, rfl, .inr (.inr (.inr (.inr (.inl ⟨en, hd, rfl⟩))))⟩
    · exact ⟨_, rfl, .inr (.inr (.inr (.inr (.inr (.inl ⟨v, hd, rfl⟩)))))⟩
    · exact ⟨_, rfl, .inr (.inr (.inr (.inr (.inr (.inr (.inl ⟨hd, rfl⟩))))))⟩
    · exact ⟨_, rfl, .inr (.inr (.inr (.inr (.inr (.inr (.inr ⟨hd, rfl⟩))))))⟩

/-- A step without a command changes nothing; a step with one performs it. -/
theorem step_cases (s : State) :
    (s.port = [] ∧ step s = .next s) ∨
    ∃ fr rest, s.port = fr :: rest ∧ step s = performFrame fr { s with port := rest } := by
  cases h : s.port with
  | nil => exact .inl ⟨rfl, by simp [step, stepPort, fetch, h]⟩
  | cons fr rest => exact .inr ⟨fr, rest, rfl, by simp [step, stepPort, fetch, h]⟩

end Sys2Proof.Machine
end

