-- ==== Sys2Proof/Tests/Slice0.lean ====
section
/-! SUPPORT. The model's own tests. The expected values are the spec's: the vectors of 95_test_vectors.md (V-C, V-E, V-P,
S), the examples of the rules, or hand calculation from the rules' formulas. Then, for every statement with hypotheses, a
witness that meets all of them. -/

namespace Sys2Proof.Tests

open Sys2Proof.Machine

/-! ## Helpers -/

/-- The state an outcome leaves, if it leaves one. -/
def final : Host.Outcome State Fault Refusal → Option State
  | .next s => some s
  | .fault _ => none
  | .refused _ => none

/-- What an observation reads of the state an outcome leaves. -/
def seen {α : Type} (f : State → α) (o : Host.Outcome State Fault Refusal) : Option α := (final o).map f

theorem final_eq {o : Host.Outcome State Fault Refusal} {t : State} (h : final o = some t) : o = .next t := by
  cases o with
  | next s => exact congrArg _ (Option.some.inj h)
  | fault r => cases h
  | refused r => cases h

/-- The reference of the vectors: 25 MHz, R = 1, no doubler, no divide-by-2, power/enable/charge pump 3/1/7. -/
def bench : State :=
  { State.reset with sess := .idle, refHz := 25000000, pwr := 3, outEn := true, cp := 7 }

/-- The words of V-C16 and of scenario S-1 (95_test_vectors.md), in bus order. -/
def wordsS1 : List Word := [0x00580005, 0x000C803C, 0x000004B3, 0x00004FC2, 0x0800CE21, 0x00300000]

/-- `bench` after SET_FREQ 2400 MHz, 10 kHz. -/
def benchLocked : State :=
  { bench with
    sess := .locked, lastFreq := 2400000000, bus := wordsS1
    img := ⟨some 0x00300000, some 0x0800CE21, some 0x00004FC2, some 0x000004B3, some 0x000C803C, some 0x00580005⟩ }

/-! ## WellFormed smoke: an ill-formed term for each check -/

theorem test_wellFormed_r0_fraction : (Instr.r0 96 4095).wellFormed = false := by decide
theorem test_wellFormed_r1_modulus : (Instr.r1 true 0).wellFormed = false := by decide
theorem test_wellFormed_r2_rcount : (Instr.r2 false false 0 7 true).wellFormed = false := by decide
theorem test_wellFormed_r4_code : (Instr.r4 7 true 3).wellFormed = false := by decide
theorem test_wellFormed_accepts : ((Instr.r0 65535 4094).wellFormed && (Instr.r1 false 1).wellFormed &&
    (Instr.r2 true true 1 0 false).wellFormed && (Instr.r4 6 false 0).wellFormed) = true := by decide

/-! ## Decode: every constructor, from a frame or word written out from the spec's encoding -/

-- V-C3, with ignored bits set in A and B (R73)
theorem test_decode_cfgRef :
    decode ⟨0x00000001, 0x00000001017D7840, 0xFFFFFFFFFFFCFC02⟩ = .ok (.cfgRef 25000000 2 false false) := by decide
theorem test_decode_setFreq :
    decode ⟨0x00000002, 0x000000008F0D1800, 0x0000000000002710⟩ = .ok (.setFreq 2400000000 10000) := by decide
theorem test_decode_setPower :
    decode ⟨0x00000003, 0xFFFFFFFFFFFFFFFF, 1⟩ = .ok (.setPower 0xFFFFFFFFFFFFFFFF) := by decide
theorem test_decode_setOutEn : decode ⟨0x00000004, 0xFFFFFFFFFFFFFFFE, 1⟩ = .ok (.setOutEn false) := by decide
theorem test_decode_setCp : decode ⟨0x00000005, 0x14, 0⟩ = .ok (.setCp 20) := by decide
theorem test_decode_getFreq :
    decode ⟨0x00000006, 0xFFFFFFFFFFFFFFFF, 0xFFFFFFFFFFFFFFFF⟩ = .ok .getFreq := by decide
theorem test_decode_getPfd : decode ⟨0x00000007, 0, 0⟩ = .ok .getPfd := by decide
theorem test_decode_reserved : [0x0, 0x8, 0x9, 0xA, 0xB, 0xC, 0xD, 0xE, 0xF].map (fun h => decode ⟨h, 0, 0⟩) =
    [.ok .reserved0, .ok .reserved8, .ok .reserved9, .ok .reservedA, .ok .reservedB, .ok .reservedC, .ok .reservedD,
      .ok .reservedE, .ok .reservedF] := by decide
-- V-C23, V-C24
theorem test_decode_reservedHeader : decode ⟨0x00000012, 0x000000008F0D1800, 0⟩ = .error (.reservedHeader 1) ∧
    decode ⟨0x80000006, 0, 0⟩ = .error (.reservedHeader 0x8000000) := by decide
-- V-E3, V-E9 (R142); V-E7 (R143); V-E10 (R144); V-E13 (R146)
theorem test_decode_r0 : decodeOut 0x004542C0 = .ok (.r0 138 2136) := by decide
theorem test_decode_r1 : decodeOut 0x0000FFF9 = .ok (.r1 false 4095) := by decide
theorem test_decode_r2 : decodeOut 0x01009FC2 = .ok (.r2 false true 2 15 true) := by decide
theorem test_decode_r3 : decodeOut 0x000004B3 = .ok .r3 := by decide
theorem test_decode_r4 : decodeOut 0x002C8034 = .ok (.r4 2 true 2) := by decide
theorem test_decode_r5 : decodeOut 0x00580005 = .ok .r5 := by decide
-- one lock-detect bit without the other (R151); an unused address (R51); R4 bit 23 (R152)
theorem test_decodeOut_rejects : decodeOut 0x00004F42 = .error .fixedBits ∧
    decodeOut 0x00000006 = .error .unusedAddress ∧ decodeOut 0x000000007 = .error .unusedAddress ∧
    decodeOut 0x008C803C = .error .fixedBits := by decide
-- the mask of R79 is 0x7: other bits do not change the format
theorem test_outFormat : outFormat 0x00004F42 = some (.r2 false false 1 7 true) ∧
    outFormat 0xFFFFFFF8 = some (.r0 65535 4095) ∧
    outFormat 0x00004EC2 = some (.r2 false false 1 7 false) ∧ outFormat 0xFFFFFFFB = some .r3 ∧ outFormat 0x00000006 = none := by decide
theorem test_decodeTableWord : decodeTableWord 32 2 = some (.setFreq 0 0) ∧ decodeTableWord 32 0 = some .reserved0 ∧
    decodeTableWord 32 0x12 = none := by decide
-- the example of R82
theorem test_encode_setFreq : encode (.setFreq 2400000000 10000) =
    .command ⟨0x00000002, 0x000000008F0D1800, 0x0000000000002710⟩ := by decide

/-! ## The commands: the vectors of 95_test_vectors.md 2.3 -/

-- V-C2: R = 0 stored as 1; V-C17: the image and the last frequency are kept
theorem test_cfgRef_zero : seen (fun t => (t.refHz, t.rCnt, t.sess)) (exec (.cfgRef 25000000 0 false false) State.reset) =
    some (25000000, 1, .idle) := by decide
theorem test_cfgRef_keeps : seen (fun t => (t.img, t.lastFreq, t.bus, t.sess))
    (exec (.cfgRef 1 1023 true true) benchLocked) =
    some (benchLocked.img, 2400000000, wordsS1, .idle) := by decide
-- V-C16 with the configuration 3/1/7 (S-1)
theorem test_setFreq_words : seen (fun t => (t.bus, t.lastFreq, t.sess, t.rspStatus))
    (exec (.setFreq 2400000000 10000) bench) = some (wordsS1, 2400000000, .locked, .ok) := by decide
-- V-E9: N_int wider than its field
theorem test_setFreq_truncates : seen State.bus
    (exec (.setFreq 4400000000 1000) { State.reset with sess := .idle, refHz := 1000000, rCnt := 1023 }) =
    some [0x00580005, 0x000C8004, 0x000004B3, 0x00FFC1C2, 0x08008009, 0x57680000] := by decide
-- V-C5, V-C6, V-C7, V-C8
theorem test_setPower : [0xFFFFFFFFFFFFFFFF, 7, 0x8000000000000000, 2].map
    (fun v => seen State.pwr (exec (.setPower v) State.reset)) = [some 0, some 3, some 0, some 2] := by decide
-- V-C9, V-C10
theorem test_setOutEn : seen State.outEn (performFrame ⟨4, 1, 0⟩ State.reset) = some true ∧
    seen State.outEn (performFrame ⟨4, 2, 0⟩ bench) = some false := by decide
-- V-C11, V-C12
theorem test_setCp : seen State.cp (exec (.setCp 0x14) State.reset) = some 15 ∧
    seen State.cp (exec (.setCp 0xFFFFFFFFFFFFFFFB) bench) = some 0 := by decide
-- V-C13, V-C18
theorem test_getFreq : seen State.response (exec .getFreq State.reset) = some ⟨.ok, 0, 0⟩ ∧
    seen State.response (exec .getFreq { benchLocked with sess := .idle }) = some ⟨.ok, 2400000000, 0⟩ := by decide
-- V-C14, V-C15
theorem test_getPfd : seen State.response (exec .getPfd State.reset) = some ⟨.ok, 0, 1⟩ ∧
    seen State.response (exec .getPfd { State.reset with refHz := 25000000, rCnt := 2, dbl := true, div2 := true }) =
      some ⟨.ok, 50000000, 4⟩ := by decide
-- V-C21, V-C22
theorem test_reserved : [Instr.reserved0, .reserved8, .reserved9, .reservedA, .reservedB, .reservedC, .reservedD,
    .reservedE, .reservedF].all (fun i => decide (final (exec i bench) =
      some { bench with rspStatus := .badCommand, rspA := 0, rspB := 0 })) = true := by decide
-- V-C19, V-C20, V-P27, V-P28
theorem test_setFreq_errors : seen (fun t => (t.rspStatus, t.sess, t.bus)) (exec (.setFreq 34000000 0) benchLocked) =
      some (.outOfRange, .locked, wordsS1) ∧
    seen State.rspStatus (exec (.setFreq 2400000000 0) State.reset) = some .planInfeasible ∧
    seen State.rspStatus (exec (.setFreq 34000000 0) State.reset) = some .outOfRange ∧
    seen State.rspStatus (exec (.setFreq 2400000000 0) { bench with refHz := 0 }) = some .planInfeasible := by decide

/-! ## The output rows: V-E1 -/

theorem test_r0_emits : seen (fun t => (t.bus, t.img.r0, t.rspStatus)) (exec (.r0 96 0) { bench with rspStatus := .badCommand }) =
    some ([0x00300000], some 0x00300000, .badCommand) := by decide
theorem test_r1_r2_emit : seen State.bus (exec (.r1 true 2500) bench) = some [0x0800CE21] ∧
    seen (fun t => t.img.r2) (exec (.r2 false false 1 7 true) bench) = some (some 0x00004FC2) := by decide
theorem test_r3_r4_r5_emit : seen State.bus (exec .r3 bench) = some [0x000004B3] ∧
    seen (fun t => t.img.r4) (exec (.r4 0 true 3) bench) = some (some 0x000C803C) ∧
    seen State.bus (exec .r5 benchLocked) = some (wordsS1 ++ [0x00580005]) := by decide

/-! ## The planner: vectors of 95_test_vectors.md 2.1 (nint, nfrac, modulus, pre, intn) -/

/-- The fields of a plan that the vectors list. -/
def planSeen (f sp : Nat) (s : State) : List Nat :=
  match plan f sp s with
  | .ok p => [p.nint, p.nfrac, p.modulus, p.pre.toNat, p.intn.toNat]
  | .error _ => []

-- V-P3 fractional; V-P4 carry; V-P5 modulus tie; V-P8 modulus 1 with carry
theorem test_plan_fractions : planSeen 433920000 10000 bench = [138, 2136, 2500, 1, 0] ∧
    planSeen 2424900000 5000000 bench = [97, 0, 5, 1, 1] ∧
    planSeen 2400000000 10000000 bench = [96, 0, 3, 1, 1] ∧
    planSeen 2440000000 100000000 bench = [98, 0, 1, 1, 1] := by decide
-- V-P9, V-P10 prescaler; V-P14 below a threshold; V-P18 a tie; V-P19 f_PFD no integer
theorem test_plan_edges : planSeen 3700000000 0 { bench with dbl := true } = [74, 0, 4095, 0, 1] ∧
    planSeen 3750000000 0 { bench with dbl := true } = [75, 0, 4095, 1, 1] ∧
    planSeen 68749999 0 bench = [176, 0, 2500, 1, 1] ∧
    planSeen 2400005000 0 bench = [96, 1, 2500, 1, 0] ∧
    planSeen 2500000000 0 { bench with rCnt := 3 } = [300, 0, 833, 1, 1] := by decide
-- S-4, thresholds and the values one hertz below
theorem test_divSel : [4400000000, 2200000000, 2199999999, 68750000, 68749999, 35000000].map divSel =
    [(1, 0), (1, 0), (2, 1), (32, 5), (64, 6), (64, 6)] := by decide

/-! ## The port, the wire and the text -/

theorem test_step_withFetchWord : seen (fun t => (t.rspStatus, t.port)) (step (State.reset.withFetchWord 32 1)) =
    some (.ok, []) ∧ seen State.rspStatus (step (State.reset.withFetchWord 32 0x12)) = some .badCommand := by decide
theorem test_present_order : seen (fun t => (t.pwr, t.port)) (step (present ⟨5, 9, 0⟩ (present ⟨3, 2, 0⟩ State.reset))) =
    some (2, [⟨5, 9, 0⟩]) := by decide
-- R55, R236
theorem test_wire : transferWord 0x0800CE21 =
    [.latchLow, .byte 0x08, .byte 0x00, .byte 0xCE, .byte 0x21, .latchHigh, .settle 5] := by decide
-- P1 line 5 and P3 line 7
theorem test_assemble : assembleLine "CFG_REF 25MHz, 2, DBL".toList = .ok (some (.cfgRef 25000000 2 true false)) := by decide
-- the spellings of notes/assumptions/12.md
theorem test_number_spellings : [".5MHz", "5.MHz", "+5", "1.5.0MHz", "5_", "MHz"].all
    (fun t => decide (readHertz t.toList = .error .badOperand)) = true ∧ readHertz "05.0kHz".toList = .ok 5000 ∧
    readInt "+5".toList = .error .badOperand ∧ readInt "-05".toList = .ok (-5) := by decide
theorem test_assemble_lines : assemble "OUT_ON\n\nOUT_OFF".toList = .ok [.setOutEn true, .setOutEn false] := by rfl
theorem test_spellFrame : spellFrame ⟨0x00000005, 0xFFFFFFFFFFFFFFFB, 0⟩ =
    "00000005:FFFFFFFFFFFFFFFB:0000000000000000".toList := by decide
-- P2 lines 1 and 9: the responses of a run
theorem test_runFrames : runFrames [⟨2, 0x8F0D1800, 0⟩, ⟨0, 0, 0⟩] State.reset =
    .next ({ State.reset with rspStatus := .badCommand }, [⟨.planInfeasible, 0, 0⟩, ⟨.badCommand, 0, 0⟩]) := by
  have h1 : performFrame ⟨2, 0x8F0D1800, 0⟩ State.reset = .next { State.reset with rspStatus := .planInfeasible } :=
    final_eq (by decide)
  have h2 : performFrame ⟨0, 0, 0⟩ { State.reset with rspStatus := .planInfeasible } =
      .next { State.reset with rspStatus := .badCommand } := final_eq (by decide)
  simp only [runFrames, h1, h2]
  rfl

/-! ## Witnesses: states and operands that meet the hypotheses of the statements -/

/-- The plan of V-P1. -/
def planVP1 : Plan :=
  { dv := 1, code := 0, vco := 2400000000, nint := 96, nfrac := 0, modulus := 2500, pre := true, intn := true }

theorem bench_plan : plan 2400000000 10000 bench = .ok planVP1 := by decide +kernel

theorem bench_setFreq : exec (.setFreq 2400000000 10000) bench = .next benchLocked := final_eq (by decide)

/-- A LOCKED state meets the invariant. -/
theorem benchLocked_inv : Inv benchLocked where
  rCount := (by decide : benchLocked.rCnt ≠ 0)
  addressed := fun w hw =>
    of_decide_eq_true (List.all_eq_true.mp
      (by decide : wordsS1.all (fun w => decide ((wordAddress w).toNat ≤ 5)) = true) w hw)
  grouped := ⟨1, by decide⟩
  image := (by decide : ∀ i : Fin 6, benchLocked.img.get i = lastWithAddress i benchLocked.bus)
  session := by
    constructor
    · decide
    · decide
    · decide
    · decide
    · decide
    · intro _
      exact (by decide : 35000000 ≤ benchLocked.lastFreq.toNat ∧ benchLocked.lastFreq.toNat ≤ 4400000000)

/-- A state with a SET_FREQ presented meets the invariant, and its step answers a next state. -/
theorem witness_EveryStepKeepsTheInvariant :
    Inv { benchLocked with port := [⟨2, 2400000000, 10000⟩] } ∧
    ∃ t, step { benchLocked with port := [⟨2, 2400000000, 10000⟩] } = .next t ∧ t.bus = wordsS1 ++ wordsS1 :=
  ⟨⟨benchLocked_inv.rCount, benchLocked_inv.addressed, benchLocked_inv.grouped, benchLocked_inv.image,
    ⟨benchLocked_inv.session.1, benchLocked_inv.session.2, benchLocked_inv.session.3, benchLocked_inv.session.4,
      benchLocked_inv.session.5, benchLocked_inv.session.6⟩⟩,
    { benchLocked with bus := wordsS1 ++ wordsS1 }, final_eq (by decide), rfl⟩

theorem witness_LockedImageReadsBack : Inv benchLocked ∧ benchLocked.sess = .locked ∧
    readImage 0 benchLocked = .ok 0x00300000 ∧ readImage 5 benchLocked = .ok 0x00580005 :=
  ⟨benchLocked_inv, rfl, by decide, by decide⟩

theorem witness_CommandFramesDecodeWithTheirOperands :
    [1, 2, 3, 4, 5, 6, 7].all (fun n => decide ((BitVec.ofNat 32 n).toNat = n)) = true ∧
    decode ⟨1, 0xFFFFFFFFFFFFFFFF, 0xFFFFFFFFFFFFFFFF⟩ = .ok (.cfgRef 0xFFFFFFFF 1023 true true) ∧
    decode ⟨2, 0xFFFFFFFFFFFFFFFF, 0⟩ = .ok (.setFreq 0xFFFFFFFFFFFFFFFF 0) ∧
    decode ⟨3, 0x7FFFFFFFFFFFFFFF, 0⟩ = .ok (.setPower 0x7FFFFFFFFFFFFFFF) ∧
    decode ⟨4, 0xFFFFFFFFFFFFFFFF, 0⟩ = .ok (.setOutEn true) ∧
    decode ⟨5, 0x8000000000000000, 0⟩ = .ok (.setCp 0x8000000000000000) ∧
    decode ⟨6, 0, 0⟩ = .ok .getFreq ∧ decode ⟨7, 0, 0⟩ = .ok .getPfd := by decide

theorem witness_BusReaderAcceptsOnlyEncodings : decodeOut 0x00300000 = .ok (.r0 96 0) ∧
    6 ≤ (6 : Word).toNat % 8 ∧ 6 ≤ (0xFFFFFFFF : Word).toNat % 8 := by decide

theorem witness_OutputFormatIsToldByTheAddressAlone : (0xFFFFFFF8 : Word).toNat % 8 = 0 ∧ (0xFFFFFFF9 : Word).toNat % 8 = 1 ∧
    (0xFFFFFFFA : Word).toNat % 8 = 2 ∧ (3 : Word).toNat % 8 = 3 ∧ (4 : Word).toNat % 8 = 4 ∧ (5 : Word).toNat % 8 = 5 ∧
    6 ≤ (0xFFFFFFFF : Word).toNat % 8 := by decide

theorem witness_IllFormedFrameAnswersBadCommand : IllFormed ⟨0, 0, 0⟩ ∧ IllFormed ⟨8, 0, 0⟩ ∧ IllFormed ⟨15, 0, 0⟩ ∧
    IllFormed ⟨16, 0, 0⟩ ∧ IllFormed ⟨0x80000006, 0, 0⟩ := by
  unfold IllFormed
  decide

theorem witness_StepPerformsTheDecodedCommand :
    (present ⟨7, 0, 0⟩ State.reset).port = [⟨7, 0, 0⟩] ∧ decode ⟨7, 0, 0⟩ = .ok .getPfd ∧
    (present ⟨16, 0, 0⟩ State.reset).port = [⟨16, 0, 0⟩] ∧ decode ⟨16, 0, 0⟩ = .error (.reservedHeader 1) ∧
    State.reset.port = [] ∧ decodeTableWord 32 7 = some .getPfd := by decide

theorem witness_RunOfFramesIsTheRunOfSteps : State.reset.port = [] := by decide

theorem witness_TargetOutOfRangeIsRejected : (34999999 : BitVec 64).toNat < 35000000 ∧
    4400000000 < (4400000001 : BitVec 64).toNat ∧ 35000000 ≤ (35000000 : BitVec 64).toNat ∧
    (4400000000 : BitVec 64).toNat ≤ 4400000000 := by decide

theorem witness_UnconfiguredReferenceIsInfeasible : LegalTarget (35000000 : BitVec 64).toNat ∧
    LegalTarget (4400000000 : BitVec 64).toNat ∧ State.reset.sess = .unconfigured ∧
    { bench with refHz := 0, dbl := true }.refHz.toNat * (1 + { bench with refHz := 0, dbl := true }.dbl.toNat) = 0 ∧
    bench.sess ≠ .unconfigured ∧ bench.refHz.toNat * (1 + bench.dbl.toNat) ≠ 0 := by
  unfold LegalTarget
  decide

theorem witness_SetFreqPlansEncodesAndLocks : ¬ LegalTarget (34999999 : BitVec 64).toNat ∧
    State.reset.sess = .unconfigured ∧ LegalTarget (35000000 : BitVec 64).toNat ∧
    LegalTarget (4400000000 : BitVec 64).toNat ∧ bench.sess ≠ .unconfigured ∧ bench.refHz ≠ 0 := by
  unfold LegalTarget
  decide

theorem witness_ReservedOpcodesAnswerBadCommand : Instr.reserved0 ∈ [Instr.reserved0, .reserved8, .reserved9, .reservedA,
    .reservedB, .reservedC, .reservedD, .reservedE, .reservedF] := by decide

theorem witness_ErrorsChangeOnlyTheResponse :
    performFrame ⟨2, 34999999, 0⟩ benchLocked = .next { benchLocked with rspStatus := .outOfRange } ∧
    { benchLocked with rspStatus := .outOfRange }.rspStatus ≠ .ok := ⟨final_eq (by decide), by decide⟩

/-- A frame and a state for each clause. -/
theorem witness_StatusFollowsTheErrorPriority :
    (IllFormed ⟨0, 0, 0⟩ ∧ performFrame ⟨0, 0, 0⟩ bench = .next { bench with rspStatus := .badCommand }) ∧
    (¬ LegalTarget (4400000001 : BitVec 64).toNat ∧
      performFrame ⟨2, 4400000001, 0⟩ State.reset = .next { State.reset with rspStatus := .outOfRange }) ∧
    (LegalTarget (4400000000 : BitVec 64).toNat ∧ State.reset.sess = .unconfigured ∧
      performFrame ⟨2, 4400000000, 0⟩ State.reset = .next { State.reset with rspStatus := .planInfeasible }) ∧
    (LegalTarget (2400000000 : BitVec 64).toNat ∧ bench.sess ≠ .unconfigured ∧ bench.refHz ≠ 0 ∧
      performFrame ⟨2, 2400000000, 10000⟩ bench = .next benchLocked) ∧
    (¬ IllFormed ⟨7, 0, 0⟩ ∧ performFrame ⟨7, 0, 0⟩ State.reset = .next { State.reset with rspB := 1 }) := by
  unfold IllFormed LegalTarget
  exact ⟨⟨by decide, final_eq (by decide)⟩, ⟨by decide, final_eq (by decide)⟩, ⟨by decide, by decide, final_eq (by decide)⟩,
    ⟨by decide, by decide, by decide, final_eq (by decide)⟩, ⟨by decide, final_eq (by decide)⟩⟩

/-- A frame for each clause: CFG_REF, a SET_FREQ that succeeds, one that fails, two in UNCONFIGURED, another command. -/
theorem witness_SessionTransitions :
    (IsCfgRef ⟨1, 0, 0⟩ ∧ seen State.sess (performFrame ⟨1, 0, 0⟩ benchLocked) = some .idle) ∧
    (IsSetFreq ⟨2, 2400000000, 10000⟩ ∧ performFrame ⟨2, 2400000000, 10000⟩ bench = .next benchLocked ∧
      benchLocked.rspStatus = .ok) ∧
    (IsSetFreq ⟨2, 0, 0⟩ ∧ performFrame ⟨2, 0, 0⟩ bench = .next { bench with rspStatus := .outOfRange }) ∧
    (State.reset.sess = .unconfigured ∧
      performFrame ⟨2, 34999999, 0⟩ State.reset = .next { State.reset with rspStatus := .outOfRange } ∧
      performFrame ⟨2, 35000000, 0⟩ State.reset = .next { State.reset with rspStatus := .planInfeasible }) ∧
    (¬ IsCfgRef ⟨6, 0, 0⟩ ∧ ¬ IsSetFreq ⟨6, 0, 0⟩ ∧ performFrame ⟨6, 0, 0⟩ bench = .next bench) := by
  unfold IsCfgRef IsSetFreq
  exact ⟨⟨by decide, by decide⟩, ⟨by decide, final_eq (by decide), rfl⟩, ⟨by decide, final_eq (by decide)⟩,
    ⟨by decide, final_eq (by decide), final_eq (by decide)⟩, ⟨by decide, by decide, final_eq (by decide)⟩⟩

/-- A command outside each clause's premise: SET_POWER for the reference, SET_OUTEN for the power, and so on. -/
theorem witness_OnlyTheNamedCommandWritesAnElement :
    performFrame ⟨3, 0, 0⟩ bench = .next { bench with pwr := 0 } ∧ ¬ IsCfgRef ⟨3, 0, 0⟩ ∧
    performFrame ⟨4, 0, 0⟩ bench = .next { bench with outEn := false } ∧ (4 : BitVec 32) ≠ 3 ∧
    performFrame ⟨5, 0, 0⟩ bench = .next { bench with cp := 0 } ∧ (5 : BitVec 32) ≠ 4 ∧ ¬ IsSetFreq ⟨5, 0, 0⟩ := by
  unfold IsCfgRef IsSetFreq
  exact ⟨final_eq (by decide), by decide, final_eq (by decide), by decide, final_eq (by decide), by decide, by decide⟩

theorem witness_ImageAndBusAreNeverRead : performFrame ⟨2, 2400000000, 10000⟩ bench = .next benchLocked :=
  final_eq (by decide)

theorem witness_BusGrowsByWholeWriteSequences :
    step { bench with port := [⟨2, 2400000000, 10000⟩] } = .next benchLocked := final_eq (by decide)

theorem witness_RepeatedSetFreqEmitsTheSameWords :
    exec (.setFreq 2400000000 10000) bench = .next benchLocked ∧ benchLocked.rspStatus = .ok := ⟨bench_setFreq, rfl⟩

/-- For each clause: the setting command, and the SET_FREQ after it. -/
theorem witness_StaticSettingsWaitForTheNextSetFreq :
    exec (.setPower 3) { bench with pwr := 0 } = .next bench ∧ exec (.setOutEn true) { bench with outEn := false } = .next bench ∧
    exec (.setCp 7) { bench with cp := 0 } = .next bench ∧
    exec (.setFreq 2400000000 10000) bench = .next benchLocked ∧ benchLocked.rspStatus = .ok :=
  ⟨final_eq (by decide), final_eq (by decide), final_eq (by decide), bench_setFreq, rfl⟩

/-- The state after CFG_REF 25 MHz, 1 and SET_FREQ 2400 MHz, 10 kHz from reset (V-C16 without the configuration). -/
def lockedFromReset : State :=
  { State.reset with
    sess := .locked, refHz := 25000000, lastFreq := 2400000000
    bus := [0x00580005, 0x000C8004, 0x000004B3, 0x000041C2, 0x0800CE21, 0x00300000]
    img := ⟨some 0x00300000, some 0x0800CE21, some 0x000041C2, some 0x000004B3, some 0x000C8004, some 0x00580005⟩ }

/-- A run from reset that emits. -/
theorem witness_run : runFrames [⟨1, 25000000, 1⟩, ⟨2, 2400000000, 10000⟩] State.reset =
      .next (lockedFromReset, [⟨.ok, 0, 0⟩, ⟨.ok, 0, 0⟩]) ∧
    lockedFromReset.bus ≠ [] ∧ lockedFromReset.sess = .locked := by
  have h1 : performFrame ⟨1, 25000000, 1⟩ State.reset = .next { State.reset with sess := .idle, refHz := 25000000 } :=
    final_eq (by decide)
  have h2 : performFrame ⟨2, 2400000000, 10000⟩ { State.reset with sess := .idle, refHz := 25000000 } =
      .next lockedFromReset := final_eq (by decide)
  refine ⟨?_, by decide, rfl⟩
  simp only [runFrames, h1, h2]
  rfl

theorem witness_VcoIsLegalForEveryAcceptedTarget : LegalTarget 35000000 ∧ LegalTarget 2199999999 ∧ LegalTarget 4400000000 ∧
    bench.sess ≠ .unconfigured ∧ bench.refHz ≠ 0 := by
  unfold LegalTarget
  decide

/-- The clauses at their boundaries: m = 1, m = 4095, the clamp above and the clamp below. -/
theorem witness_ModulusIsTheClampedRounding :
    (2 * 1 - 1) * (1 * 10) ≤ 2 * 5 ∧ 2 * 5 < (2 * 1 + 1) * (1 * 10) ∧ modConv 5 1 10 = 1 ∧
    (2 * 4095 - 1) * (1 * 10) ≤ 2 * 40954 ∧ 2 * 40954 < (2 * 4095 + 1) * (1 * 10) ∧ modConv 40954 1 10 = 4095 ∧
    8191 * (1 * 10) ≤ 2 * 40955 ∧ modConv 40955 1 10 = 4095 ∧
    2 * 4 < 1 * 10 ∧ modConv 4 1 10 = 1 := by decide

/-- V-P4: the fraction reaches the modulus; V-P3: it does not. -/
theorem witness_CarryNormalisesTheFraction : 24900000 < 25000000 ∧ 0 < 5 ∧ fracConv 24900000 5 25000000 = 5 ∧
    fracConv 21360000 2500 25000000 = 2136 := by decide

theorem witness_planner : plan 2400000000 10000 bench = .ok planVP1 ∧ RCountPositive bench ∧
    plan (2400000000 : BitVec 64).toNat (10000 : BitVec 64).toNat bench = .ok planVP1 :=
  ⟨bench_plan, (by decide : bench.rCnt ≠ 0), by decide⟩

theorem witness_ReconstructionIsExactOnTheGrid : RCountPositive bench ∧ plan 2400000000 10000 bench = .ok planVP1 ∧
    (planVP1.vco : ℚ) = (96 : ℕ) * pfdHz bench := by
  refine ⟨witness_planner.2.1, bench_plan, ?_⟩
  have h1 : pfdNum bench = 25000000 := by decide
  have h2 : pfdDen bench = 1 := by decide
  rw [pfdHz, h1, h2]
  norm_num [planVP1]

theorem witness_PlannerReadsOnlyTheReference : benchLocked.refHz = bench.refHz ∧ benchLocked.rCnt = bench.rCnt ∧
    benchLocked.dbl = bench.dbl ∧ benchLocked.div2 = bench.div2 ∧
    { benchLocked with sess := .idle }.sess = bench.sess ∧ benchLocked.bus ≠ bench.bus := by decide

theorem witness_AssembledLinesAreCommands : assembleLine "SET_CP -5".toList = .ok (some (.setCp (-5))) := by decide

end Sys2Proof.Tests
end

section
/-! PROOF. The response is written and never read (10_state.md R31, R32): a command that follows `respond` leaves what it
leaves without it. -/

namespace Sys2Proof.Machine

/-- The later response replaces the earlier one whole. -/
@[simp] theorem respond_respond (st st' : Status) (a b a' b' : BitVec 64) (s : State) :
    respond st a b (respond st' a' b' s) = respond st a b s := rfl

@[simp] theorem raiseError_respond (e : Error) (st : Status) (a b : BitVec 64) (s : State) :
    raiseError e (respond st a b s) = raiseError e s := rfl

@[simp] theorem pfdNum_respond (st : Status) (a b : BitVec 64) (s : State) :
    pfdNum (respond st a b s) = pfdNum s := rfl

@[simp] theorem pfdDen_respond (st : Status) (a b : BitVec 64) (s : State) :
    pfdDen (respond st a b s) = pfdDen s := rfl

@[simp] theorem configured_respond (st : Status) (a b : BitVec 64) (s : State) :
    configured (respond st a b s) = configured s := rfl

/-- The planner reads the session and the reference registers alone (40_planner.md R100), so not the response. -/
@[simp] theorem plan_respond (f sp : Nat) (st : Status) (a b : BitVec 64) (s : State) :
    plan f sp (respond st a b s) = plan f sp s := by
  unfold plan
  rw [configured_respond, pfdNum_respond, pfdDen_respond]

/-- The encoder reads no response either, and `lockPlan` writes a new one. -/
@[simp] theorem lockPlan_respond (f : BitVec 64) (p : Plan) (st : Status) (a b : BitVec 64) (s : State) :
    lockPlan f p (respond st a b s) = lockPlan f p s := rfl

@[simp] theorem execSetFreq_respond (f sp : BitVec 64) (st : Status) (a b : BitVec 64) (s : State) :
    execSetFreq f sp (respond st a b s) = execSetFreq f sp s := by
  simp only [execSetFreq, plan_respond, raiseError_respond, lockPlan_respond]

/-- A command performed after `respond`: the planner is the one reader of the state that branches, and each of the other
commands writes a whole response of its own. -/
@[simp] theorem performFrame_respond (fr : Frame) (st : Status) (a b : BitVec 64) (s : State) :
    performFrame fr (respond st a b s) = performFrame fr s := by
  rcases performFrame_cases fr with bad | ⟨i, -, performs, command⟩
  · rw [bad, bad, raiseError_respond]
  · rw [performs, performs]
    rcases command with ⟨ref, r, d, h, rfl⟩ | ⟨f, sp, rfl⟩ | ⟨v, rfl⟩ | ⟨en, rfl⟩ | ⟨v, rfl⟩ | rfl | rfl
    · rfl
    · exact execSetFreq_respond f sp st a b s
    all_goals rfl

/-- Settles O31: overwriting the response is `respond`, which no command can see. -/
theorem responseIsNeverRead : Obligations.ResponseIsNeverRead :=
  fun fr s st a b => performFrame_respond fr st a b s

end Sys2Proof.Machine
end

section
/-! PROOF. The operand bits a command ignores (30_encoding.md R73, R74): clearing them leaves what the frame decodes to. -/

namespace Sys2Proof.Machine

/-- A field whose bits the mask keeps is read through the mask. -/
theorem extractLsb'_and_of_mask {n : Nat} (x m : BitVec n) (lo len : Nat)
    (keeps : m.extractLsb' lo len = BitVec.allOnes len) : (x &&& m).extractLsb' lo len = x.extractLsb' lo len := by
  rw [BitVec.extractLsb'_and, keeps, BitVec.and_allOnes]

/-- The same for one bit. -/
theorem getLsbD_and_of_mask {n : Nat} (x m : BitVec n) (i : Nat) (keeps : m.getLsbD i = true) :
    (x &&& m).getLsbD i = x.getLsbD i := by
  rw [BitVec.getLsbD_and, keeps, Bool.and_true]

/-- Frames of one command that agree on the operand fields of its opcode decode alike. -/
theorem decode_congr {fr fr' : Frame} (hdr : fr.hdr = fr'.hdr)
    (operands : decodeOpcode (headerOpcode fr'.hdr) fr.a fr.b = decodeOpcode (headerOpcode fr'.hdr) fr'.a fr'.b) :
    decode fr = decode fr' := by
  unfold decode
  rw [hdr, operands]

/-- CFG_REF reads A[31:0] and B[9:0], B[16], B[17]: all inside its two masks. -/
theorem decodeOpcode_cfgRef_masked (a b : BitVec 64) :
    decodeOpcode 1#4 (a &&& 0xFFFFFFFF#64) (b &&& 0x303FF#64) = decodeOpcode 1#4 a b := by
  show Instr.cfgRef _ _ _ _ = Instr.cfgRef _ _ _ _
  rw [extractLsb'_and_of_mask a _ 0 32 rfl, extractLsb'_and_of_mask b _ 0 10 rfl,
    getLsbD_and_of_mask b _ 16 rfl, getLsbD_and_of_mask b _ 17 rfl]

/-- SET_OUTEN reads A[0] alone. -/
theorem decodeOpcode_setOutEn_masked (a b : BitVec 64) :
    decodeOpcode 4#4 (a &&& 1#64) 0 = decodeOpcode 4#4 a b :=
  congrArg Instr.setOutEn (getLsbD_and_of_mask a _ 0 rfl)

/-- The decoder does not see the ignored bits. Of SET_POWER, SET_CP, GET_FREQ and GET_PFD whole operands are cleared, and
no field of their rows mentions those. -/
theorem decode_clearIgnored (fr : Frame) : decode (clearIgnored fr) = decode fr := by
  obtain ⟨hdr, a, b⟩ := fr
  unfold clearIgnored
  split_ifs with cfgRef setPower setOutEn setCp getFreq getPfd
  · obtain rfl : hdr = _ := cfgRef
    exact decode_congr rfl (decodeOpcode_cfgRef_masked a b)
  · obtain rfl : hdr = _ := setPower
    exact decode_congr rfl rfl
  · obtain rfl : hdr = _ := setOutEn
    exact decode_congr rfl (decodeOpcode_setOutEn_masked a b)
  · obtain rfl : hdr = _ := setCp
    exact decode_congr rfl rfl
  · obtain rfl : hdr = _ := getFreq
    exact decode_congr rfl rfl
  · obtain rfl : hdr = _ := getPfd
    exact decode_congr rfl rfl
  · rfl

/-- Settles O5: a frame is performed by what it decodes to. -/
theorem ignoredOperandBitsHaveNoEffect : Obligations.IgnoredOperandBitsHaveNoEffect := by
  intro fr s
  unfold performFrame
  rw [decode_clearIgnored]

end Sys2Proof.Machine
end

section
/-! PROOF. The reader of the bus stream (30_encoding.md R79): the address is the word mod 8, and the fields are taken from
the places of 41_encoder.md R142 to R147. -/

namespace Sys2Proof

theorem wordAddress_toNat (w : Word) : (wordAddress w).toNat = w.toNat % 8 := by
  rw [wordAddress, Machine.toNat_field]
  omega

/-- A field of a vector, as the vector of its number. -/
theorem extractLsb'_eq_ofNat_div {n : Nat} (x : BitVec n) (lo len : Nat) :
    x.extractLsb' lo len = BitVec.ofNat len (x.toNat / 2 ^ lo) := by
  apply BitVec.eq_of_toNat_eq
  rw [Machine.toNat_field, BitVec.toNat_ofNat]

/-- The addresses 6 and 7 are no format (20_memory.md R51). -/
theorem outFormat_eq_none (w : Word) (unused : 6 ≤ w.toNat % 8) : outFormat w = none := by
  obtain h | h : w.toNat % 8 = 6 ∨ w.toNat % 8 = 7 := by omega
  all_goals simp only [outFormat, outFields, wordAddress_toNat, h, Option.map_none]

/-- Settles O57: the reader branches on the address alone, and each of its fields is a division or a bit test. -/
theorem outputFormatIsToldByTheAddressAlone : Obligations.OutputFormatIsToldByTheAddressAlone := by
  intro w
  refine ⟨fun h => ?_, fun h => ?_, fun h => ?_, fun h => ?_, fun h => ?_, fun h => ?_, outFormat_eq_none w⟩
  all_goals
    simp only [outFormat, outFields, wordAddress_toNat, h, Option.map_some, extractLsb'_eq_ofNat_div,
      BitVec.testBit_toNat]

end Sys2Proof
end

section
/-! PROOF. The parts of the planner's arithmetic (40_planner.md R104, R105, R111, R112): the divider table as a search
along falling thresholds, and the modulus as a clamped rounding. -/

namespace Sys2Proof.Machine

/-- Along thresholds that do not rise, the first row met stands behind exactly the rows whose threshold is above f. -/
theorem divSelFrom_eq_getD (f : Nat) (rows : List (Nat × Nat × Nat))
    (falling : rows.Pairwise fun upper lower => lower.1 ≤ upper.1) :
    divSelFrom f rows = (rows.map Prod.snd).getD ((rows.map Prod.fst).filter (f < ·)).length (64, 6) := by
  induction rows with
  | nil => rfl
  | cons row rows ih =>
    obtain ⟨t, dv, code⟩ := row
    obtain ⟨below, falling⟩ := List.pairwise_cons.mp falling
    by_cases met : t ≤ f
    · have noneAbove : (rows.map Prod.fst).filter (f < ·) = [] := by
        rw [List.filter_eq_nil_iff, List.forall_mem_map]
        intro lower mem
        have := below lower mem
        simpa using this.trans met
      simp [divSelFrom, met, noneAbove, Nat.not_lt.mpr met]
    · simp [divSelFrom, met, ih falling, Nat.not_le.mp met]

/-- Row c + 1 of the divider table, counting row 7, holds the divider 2^c and the code c. -/
theorem dividerTable_getD {c : Nat} (row : c ≤ 6) : (dividerTable.map Prod.snd).getD c (64, 6) = (2 ^ c, c) := by
  interval_cases c <;> rfl

/-- Settles O38: the thresholds fall, and no more than six of them can be above f. -/
theorem dividerIsTheFirstRowMet : Obligations.DividerIsTheFirstRowMet := by
  intro f c
  have row : c ≤ 6 := List.length_filter_le _ _
  calc divSel f = (dividerTable.map Prod.snd).getD c (64, 6) := divSelFrom_eq_getD f dividerTable (by decide)
    _ = (2 ^ c, c) := dividerTable_getD row

/-- The rounding exceeds m exactly from m + 1/2 on: ties go up (00_scope.md R14). -/
theorem lt_rhu_iff {n d : Nat} (m : Nat) (hd : 0 < d) : m < rhu n d ↔ (2 * m + 1) * d ≤ 2 * n := by
  have shift : (m + 1) * (2 * d) = (2 * m + 1) * d + d := by ring
  rw [rhu, ← Nat.succ_le_iff, Nat.le_div_iff_mul_le (by omega), Nat.succ_eq_add_one, shift, Nat.add_le_add_iff_right]

/-- The clamp of R112 on the natural numbers. -/
theorem modConv_eq_max_min (num den sp : Nat) : modConv num den sp = min (max (rhu num (den * sp)) 1) 4095 := by
  show (min (max (rhu num (den * sp) : Int) 1) 4095).toNat = _
  omega

/-- Settles O40: each premise says on which side of a half-integer the quotient lies. -/
theorem modulusIsTheClampedRounding : Obligations.ModulusIsTheClampedRounding := by
  intro num den sp hden hsp
  have rounding := fun m => lt_rhu_iff (n := num) m (Nat.mul_pos hden hsp)
  refine ⟨modConv_bounds num den sp, fun m low high above below => ?_, fun above => ?_, fun below => ?_⟩
  all_goals rw [modConv_eq_max_min]
  · obtain ⟨k, rfl⟩ : ∃ k, m = k + 1 := ⟨m - 1, by omega⟩
    have lower : k < rhu num (den * sp) := (rounding k).mpr above
    have upper : ¬ k + 1 < rhu num (den * sp) := (rounding (k + 1)).not.mpr below.not_ge
    omega
  · have : 4095 < rhu num (den * sp) := (rounding 4095).mpr above
    omega
  · have : ¬ 0 < rhu num (den * sp) := (rounding 0).not.mpr (by omega)
    omega

end Sys2Proof.Machine
end

section
/-! PROOF. What the planner and SET_FREQ answer, case by case (40_planner.md R100 to R103, R108), and what the planner
reads and computes last (R116, R117, R122). -/

namespace Sys2Proof.Machine

theorem inRange_eq_false_iff (f : Nat) : inRange f = false ↔ f < 35000000 ∨ 4400000000 < f := by
  rw [← Bool.not_eq_true, inRange_iff]
  omega

/-- `ConfigCheck` fails in UNCONFIGURED, or with a numerator of f_PFD that is 0 (R103). -/
theorem configured_eq_false_iff (s : State) : configured s = false ↔ s.sess = .unconfigured ∨ pfdNum s = 0 := by
  simp [configured, Classical.or_iff_not_imp_left]

theorem plan_of_not_inRange {f : Nat} (sp : Nat) (s : State) (range : inRange f = false) :
    plan f sp s = .error .outOfRange := by
  rw [plan_eq, if_pos range]

theorem plan_of_not_configured {f : Nat} (sp : Nat) {s : State} (range : inRange f = true)
    (config : configured s = false) : plan f sp s = .error .planInfeasible := by
  rw [plan_eq, if_neg (by simp [range]), if_pos config]

theorem plan_of_configured {f : Nat} (sp : Nat) {s : State} (range : inRange f = true) (config : configured s = true) :
    plan f sp s = .ok (acceptedPlan f sp s) := by
  rw [plan_eq, if_neg (by simp [range]), if_neg (by simp [config])]

theorem execSetFreq_of_error {f sp : BitVec 64} {s : State} {e : Error} (h : plan f.toNat sp.toNat s = .error e) :
    execSetFreq f sp s = .next (raiseError e s) := by
  rw [execSetFreq, h]

theorem execSetFreq_of_ok {f sp : BitVec 64} {s : State} {p : Plan} (h : plan f.toNat sp.toNat s = .ok p) :
    execSetFreq f sp s = .next (lockPlan f p s) := by
  rw [execSetFreq, h]

/-- Settles O22: an accepted target is answered with PlanInfeasible or OK. -/
theorem targetOutOfRangeIsRejected : Obligations.TargetOutOfRangeIsRejected := by
  intro f sp s
  refine ⟨fun outside => ?_, fun low high => ?_⟩
  · have range := (inRange_eq_false_iff f.toNat).mpr outside
    exact execSetFreq_of_error (plan_of_not_inRange sp.toNat s range)
  · have range := (inRange_iff f.toNat).mpr ⟨low, high⟩
    cases config : configured s with
    | false => exact ⟨_, execSetFreq_of_error (plan_of_not_configured sp.toNat range config), by simp [Error.status]⟩
    | true => exact ⟨_, execSetFreq_of_ok (plan_of_configured sp.toNat range config), by simp⟩

/-- Settles O23: for an accepted target `configured` alone decides. -/
theorem unconfiguredReferenceIsInfeasible : Obligations.UnconfiguredReferenceIsInfeasible := by
  intro f sp s legal
  have range := (inRange_iff f.toNat).mpr legal
  refine ⟨fun unusable => ?_, fun session numerator => ?_⟩
  · have config := (configured_eq_false_iff s).mpr unusable
    exact execSetFreq_of_error (plan_of_not_configured sp.toNat range config)
  · have config : configured s = true := by
      rw [← Bool.not_eq_false, configured_eq_false_iff]
      exact not_or.mpr ⟨session, numerator⟩
    exact ⟨_, execSetFreq_of_ok (plan_of_configured sp.toNat range config), rfl⟩

theorem prescalerFlag_iff (nint : Nat) : prescalerFlag nint = true ↔ 75 ≤ nint := decide_eq_true_iff

theorem integerNFlag_iff (nfrac : Nat) : integerNFlag nfrac = true ↔ nfrac = 0 := decide_eq_true_iff

theorem planFields_pre (dv code vco num den sp : Nat) :
    (planFields dv code vco num den sp).pre = prescalerFlag (planFields dv code vco num den sp).nint := rfl

theorem planFields_intn (dv code vco num den sp : Nat) :
    (planFields dv code vco num den sp).intn = integerNFlag (planFields dv code vco num den sp).nfrac := rfl

/-- Settles O42: every plan is one of `planFields`, which takes both flags from its own integer and fraction. -/
theorem planFlagsFollowTheCarriedValues : Obligations.PlanFlagsFollowTheCarriedValues := by
  intro f sp s p accepted
  obtain ⟨-, -, rfl⟩ := plan_ok accepted
  rw [acceptedPlan, planFields_pre, planFields_intn]
  exact ⟨prescalerFlag_iff _, integerNFlag_iff _⟩

/-- The planner reads the state through `configured` and the two parts of f_PFD (R100, R101, R103). -/
theorem plan_congr {s t : State} (f sp : Nat) (config : configured t = configured s) (num : pfdNum t = pfdNum s)
    (den : pfdDen t = pfdDen s) : plan f sp t = plan f sp s := by
  rw [plan, plan, config, num, den]

theorem pfdNum_congr {s t : State} (ref : t.refHz = s.refHz) (dbl : t.dbl = s.dbl) : pfdNum t = pfdNum s := by
  rw [pfdNum, pfdNum, ref, dbl]

theorem pfdDen_congr {s t : State} (rCnt : t.rCnt = s.rCnt) (div2 : t.div2 = s.div2) : pfdDen t = pfdDen s := by
  rw [pfdDen, pfdDen, rCnt, div2]

theorem configured_congr {s t : State} (sess : t.sess = s.sess) (num : pfdNum t = pfdNum s) :
    configured t = configured s := by
  rw [configured, configured, sess, num]

/-- Settles O43: what the planner reads are functions of the five named elements. -/
theorem plannerReadsOnlyTheReference : Obligations.PlannerReadsOnlyTheReference := by
  intro f sp s t sess ref rCnt dbl div2
  have num := pfdNum_congr ref dbl
  exact plan_congr f sp (configured_congr sess num) num (pfdDen_congr rCnt div2)

end Sys2Proof.Machine
end

section
/-! PROOF. The six words the encoder makes, as numbers (41_encoder.md R140 to R148). Each word is built from its highest
field down, so every OR with a lower field is an addition; the bits of a word are read off its value. -/

namespace Sys2Proof.Machine

/-- A field placed below every set bit of a word of known value adds its low bits to that value. -/
theorem or_place_toNat {w : Word} {n : Nat} (value : w.toNat = n) (v p k : Nat) (fits : p + k ≤ 32)
    (below : n % 2 ^ (p + k) = 0) : (w ||| place v p k).toNat = n + v % 2 ^ k * 2 ^ p := by
  have field := place_toNat v p k fits
  have small : (place v p k).toNat < 2 ^ (p + k) := by
    rw [field, Nat.pow_add, Nat.mul_comm (2 ^ p)]
    exact Nat.mul_lt_mul_of_pos_right (Nat.mod_lt v (by positivity)) (by positivity)
  rw [toNat_or_add w (place v p k) (p + k) (value ▸ below) small, value, field]

/-- The address of a register, in the bits [2:0] that a word has left clear (R149). -/
theorem or_address_toNat {w a : Word} {n i : Nat} (value : w.toNat = n) (address : a.toNat = i) (fits : i < 2 ^ 3)
    (clear : n % 2 ^ 3 = 0) : (w ||| a).toNat = n + i := by
  rw [toNat_or_add w a 3 (value ▸ clear) (address ▸ fits), value, address]

/-- A flag fits its one-bit field. -/
theorem toNat_bool_mod (b : Bool) : b.toNat % 2 ^ 1 = b.toNat := Nat.mod_eq_of_lt b.toNat_lt

theorem encodeR0_toNat (p : Plan) :
    (encodeR0 p).toNat = p.nint % 2 ^ 16 * 2 ^ 15 + p.nfrac % 2 ^ 12 * 2 ^ 3 :=
  or_place_toNat (place_toNat p.nint 15 16 (by decide)) p.nfrac 3 12 (by decide) (by omega)

theorem encodeR1_toNat (p : Plan) :
    (encodeR1 p).toNat = p.pre.toNat * 2 ^ 27 + 2 ^ 15 + p.modulus % 2 ^ 12 * 2 ^ 3 + 1 := by
  have prescaler := place_toNat p.pre.toNat 27 1 (by decide)
  have phase := or_place_toNat prescaler 1 15 1 (by decide) (by omega)
  have modulus := or_place_toNat phase p.modulus 3 12 (by decide) (by omega)
  have word := or_address_toNat (a := 1) (i := 1) modulus rfl (by decide) (by omega)
  calc (encodeR1 p).toNat = _ := word
    _ = _ := by
      simp only [toNat_bool_mod]
      omega

theorem encodeR2_toNat (p : Plan) (s : State) :
    (encodeR2 p s).toNat = s.dbl.toNat * 2 ^ 25 + s.div2.toNat * 2 ^ 24 + s.rCnt.toNat * 2 ^ 14 + s.cp.toNat * 2 ^ 9 +
      p.intn.toNat * 2 ^ 8 + p.intn.toNat * 2 ^ 7 + 2 ^ 6 + 2 := by
  have doubler := place_toNat s.dbl.toNat 25 1 (by decide)
  have divider := or_place_toNat doubler s.div2.toNat 24 1 (by decide) (by omega)
  have counter := or_place_toNat divider s.rCnt.toNat 14 10 (by decide) (by omega)
  have pump := or_place_toNat counter s.cp.toNat 9 4 (by decide) (by omega)
  have lockFunction := or_place_toNat pump p.intn.toNat 8 1 (by decide) (by omega)
  have lockPrecision := or_place_toNat lockFunction p.intn.toNat 7 1 (by decide) (by omega)
  have polarity := or_place_toNat lockPrecision 1 6 1 (by decide) (by omega)
  have word := or_address_toNat (a := 2) (i := 2) polarity rfl (by decide) (by omega)
  calc (encodeR2 p s).toNat = _ := word
    _ = _ := by
      simp only [toNat_bool_mod, BitVec.toNat_mod_cancel]
      omega

theorem encodeR3_toNat : encodeR3.toNat = 150 * 2 ^ 3 + 3 := by decide

/-- The fixed 200 is the band-select clock divider, and the feedback-select bit adds nothing (R146, D20). -/
theorem encodeR4_toNat (p : Plan) (s : State) :
    (encodeR4 p s).toNat = p.code % 2 ^ 3 * 2 ^ 20 + 200 * 2 ^ 12 + s.outEn.toNat * 2 ^ 5 +
      s.pwr.toNat * 2 ^ 3 + 4 := by
  have feedback : (place fbselDivided 23 1).toNat = 0 := by decide
  have code := or_place_toNat feedback p.code 20 3 (by decide) (by decide)
  have clock := or_place_toNat code 200 12 8 (by decide) (by omega)
  have unused := or_place_toNat clock 0 6 6 (by decide) (by omega)
  have enable := or_place_toNat unused s.outEn.toNat 5 1 (by decide) (by omega)
  have power := or_place_toNat enable s.pwr.toNat 3 2 (by decide) (by omega)
  have word := or_address_toNat (a := 4) (i := 4) power rfl (by decide) (by omega)
  calc (encodeR4 p s).toNat = _ := word
    _ = _ := by
      simp only [toNat_bool_mod, BitVec.toNat_mod_cancel]
      omega

theorem encodeR5_toNat : encodeR5.toNat = 2 ^ 22 + 3 * 2 ^ 19 + 5 := by decide

/-- Settles O48: word by word. -/
theorem encoderPacksTheSixWords : Obligations.EncoderPacksTheSixWords := fun p s =>
  ⟨encodeR0_toNat p, encodeR1_toNat p, encodeR2_toNat p s, encodeR3_toNat, encodeR4_toNat p s, encodeR5_toNat⟩

theorem extractLsb'_eq_zero_iff {n : Nat} (x : BitVec n) (lo len : Nat) :
    x.extractLsb' lo len = 0 ↔ x.toNat / 2 ^ lo % 2 ^ len = 0 := by
  rw [← toNat_field, ← BitVec.toNat_inj]
  rfl

/-- Bits [26:16] of R1 lie between the prescaler and the phase-adjust bit (R143). -/
theorem encodeR1_middle (p : Plan) : (encodeR1 p).extractLsb' 16 11 = 0 := by
  rw [extractLsb'_eq_zero_iff, encodeR1_toNat]
  omega

/-- Bit 21 and the bits [18:3] of R5, around the two reserved bits (R147). -/
theorem encodeR5_gaps : encodeR5.getLsbD 21 = false ∧ encodeR5.extractLsb' 3 16 = 0 := by decide

/-! Above the highest field of a word there is nothing (R142 to R147). -/

theorem encodeR0_toNat_lt (p : Plan) : (encodeR0 p).toNat < 2 ^ 31 := by
  rw [encodeR0_toNat]
  omega

theorem encodeR1_toNat_lt (p : Plan) : (encodeR1 p).toNat < 2 ^ 28 := by
  have prescaler := p.pre.toNat_lt
  rw [encodeR1_toNat]
  omega

theorem encodeR2_toNat_lt (p : Plan) (s : State) : (encodeR2 p s).toNat < 2 ^ 26 := by
  have doubler := s.dbl.toNat_lt
  have divider := s.div2.toNat_lt
  have lock := p.intn.toNat_lt
  rw [encodeR2_toNat]
  omega

theorem encodeR3_toNat_lt : encodeR3.toNat < 2 ^ 15 := by decide

/-- The highest bit set is one of the divider-select code: bit 23 is placed as 0 (D20). -/
theorem encodeR4_toNat_lt (p : Plan) (s : State) : (encodeR4 p s).toNat < 2 ^ 23 := by
  have enable := s.outEn.toNat_lt
  rw [encodeR4_toNat]
  omega

theorem encodeR5_toNat_lt : encodeR5.toNat < 2 ^ 23 := by decide

theorem extractLsb'_eq_zero_of_toNat_lt {n lo : Nat} {x : BitVec n} (len : Nat) (small : x.toNat < 2 ^ lo) :
    x.extractLsb' lo len = 0 := by
  rw [extractLsb'_eq_zero_iff, Nat.div_eq_of_lt small, Nat.zero_mod]

/-- Settles O51: the bits above a word's highest field, the gap in R1, and the gaps in the constant R5. -/
theorem unnamedBitsAreZero : Obligations.UnnamedBitsAreZero := by
  intro p s
  have r2High : (encodeR2 p s).toNat < 2 ^ 31 := (encodeR2_toNat_lt p s).trans (by decide)
  have r4High : (encodeR4 p s).toNat < 2 ^ 24 := (encodeR4_toNat_lt p s).trans (by decide)
  obtain ⟨r5Bit21, r5Middle⟩ := encodeR5_gaps
  exact ⟨Nat.testBit_lt_two_pow (encodeR0_toNat_lt p),
    extractLsb'_eq_zero_of_toNat_lt 4 (encodeR1_toNat_lt p), encodeR1_middle p,
    Nat.testBit_lt_two_pow r2High,
    extractLsb'_eq_zero_of_toNat_lt 17 encodeR3_toNat_lt,
    extractLsb'_eq_zero_of_toNat_lt 8 r4High,
    extractLsb'_eq_zero_of_toNat_lt 9 encodeR5_toNat_lt, r5Bit21, r5Middle⟩

/-- Settles O53: the word of register 4 ends below bit 23. -/
theorem feedbackSelectIsAlwaysDivided : Obligations.FeedbackSelectIsAlwaysDivided := fun p s =>
  Nat.testBit_lt_two_pow (encodeR4_toNat_lt p s)

end Sys2Proof.Machine
end

section
/-! PROOF. The commands other than SET_FREQ, and the ill-formed frame (42_commands.md R181, R183 to R188): which frames
stand for which command, and the values each command stores or answers. -/

namespace Sys2Proof.Machine

open Sys2Proof.Laws.TableRow (rowMatch)

/-- A frame whose header is an opcode is the execution of that opcode's row, with the frame's operands
(30_encoding.md R72). -/
theorem performFrame_of_hdr {fr : Frame} (op : BitVec 4) (hdr : fr.hdr = op.setWidth 32) (s : State) :
    performFrame fr s = exec (decodeOpcode op fr.a fr.b) s := by
  have value : fr.hdr.toNat = op.toNat := by
    rw [hdr, BitVec.toNat_setWidth_of_le (by decide)]
  have decodes := decode_hdr fr op.toNat op.isLt value
  rw [BitVec.ofNat_toNat, BitVec.setWidth_eq] at decodes
  simp only [performFrame, decodes]

/-- The opcode map takes each opcode to the row whose match it is. -/
theorem rowMatch_decodeOpcode (op : BitVec 4) (a b : BitVec 64) :
    rowMatch (decodeOpcode op a b) = op.setWidth 32 := by
  obtain ⟨⟨n, small⟩⟩ := op
  interval_cases n <;> rfl

/-- The header of a frame that decodes is the match of its row, as a whole word (30_encoding.md R71, R72). -/
theorem hdr_eq_rowMatch {fr : Frame} {i : Instr} (decodes : decode fr = .ok i) : fr.hdr = rowMatch i := by
  by_cases reserved : headerReserved fr.hdr = 0#28
  · obtain rfl : decodeOpcode (headerOpcode fr.hdr) fr.a fr.b = i := by
      simpa [decode_ok fr reserved] using decodes
    have small := (headerReserved_eq_zero_iff fr.hdr).mp reserved
    apply BitVec.eq_of_toNat_eq
    rw [rowMatch_decodeOpcode, BitVec.toNat_setWidth_of_le (by decide), headerOpcode_toNat, Nat.mod_eq_of_lt small]
  · rw [decode_reject fr reserved] at decodes
    cases decodes

/-- Settles O4: every frame that is not answered with BadCommand decodes to one of the seven commands, whose headers are
1 to 7. -/
theorem illFormedFrameAnswersBadCommand : Obligations.IllFormedFrameAnswersBadCommand := by
  intro fr s illFormed
  rcases performFrame_cases fr with bad | ⟨i, decodes, -, command⟩
  · exact bad s
  · have hdr := hdr_eq_rowMatch decodes
    rw [IllFormed, hdr] at illFormed
    rcases command with ⟨ref, r, d, h, rfl⟩ | ⟨f, sp, rfl⟩ | ⟨v, rfl⟩ | ⟨en, rfl⟩ | ⟨v, rfl⟩ | rfl | rfl
    all_goals exact absurd illFormed (by simp [rowMatch])

/-- The R-counter as the maximum of R181. -/
theorem rCounterOperand_eq_max (r : BitVec 10) : rCounterOperand r = BitVec.ofNat 10 (max r.toNat 1) := by
  unfold rCounterOperand
  split_ifs with zero
  · rw [zero]
    rfl
  · have positive : 1 ≤ r.toNat := Nat.one_le_iff_ne_zero.mpr (BitVec.toNat_ne_iff_ne.mpr zero)
    rw [max_eq_left positive, BitVec.ofNat_toNat, BitVec.setWidth_eq]

/-- Settles O15: the stored R-counter is the one operand that is not taken as it comes. -/
theorem cfgRefWritesTheReference : Obligations.CfgRefWritesTheReference := by
  refine ⟨fun _ _ => performFrame_of_hdr 1#4 rfl, fun ref r d h s => ?_⟩
  rw [← rCounterOperand_eq_max]
  rfl

/-- Settles O16: the stored level is the clamped operand, which fits two bits. -/
theorem setPowerClampsAndStores : Obligations.SetPowerClampsAndStores :=
  ⟨fun _ _ => performFrame_of_hdr 3#4 rfl, fun v _ => ⟨powerOperand v, powerOperand_toNat v, rfl⟩⟩

/-- Settles O17: the bit the decoder reads is the parity. -/
theorem setOutEnStoresBitZero : Obligations.SetOutEnStoresBitZero := by
  refine ⟨fun a b s => ?_, fun en s => rfl⟩
  have parity : a.getLsbD 0 = decide (a.toNat % 2 = 1) := by
    rw [getLsbD_eq_decide, Nat.pow_zero, Nat.div_one]
  rw [← parity]
  exact performFrame_of_hdr 4#4 rfl s

/-- Settles O18: the stored code is the clamped operand, which fits four bits. -/
theorem setCpClampsAndStores : Obligations.SetCpClampsAndStores :=
  ⟨fun _ _ => performFrame_of_hdr 5#4 rfl,
    fun v _ => ⟨chargePumpOperand v, chargePumpOperand_toNat v, rfl⟩⟩

/-- Settles O19: opcode 6 has no operand field, so any A and B decode to it. -/
theorem getFreqAnswersLastTarget : Obligations.GetFreqAnswersLastTarget :=
  ⟨fun _ _ => performFrame_of_hdr 6#4 rfl, fun _ => rfl⟩

/-- The numerator of f_PFD is a 32-bit reference, doubled at most (R101). -/
theorem pfdNum_lt (s : State) : pfdNum s < 2 ^ 33 :=
  Nat.mul_lt_mul_of_lt_of_le (c := 2 ^ 32) (d := 2) s.refHz.isLt (by have := s.dbl.toNat_lt; omega) (by decide)

/-- The denominator of f_PFD is a 10-bit counter, doubled at most (R101). -/
theorem pfdDen_lt (s : State) : pfdDen s < 2 ^ 11 :=
  Nat.mul_lt_mul_of_lt_of_le (c := 2 ^ 10) (d := 2) s.rCnt.isLt (by have := s.div2.toNat_lt; omega) (by decide)

/-- Settles O20: both parts fit the 64 bits of a result value, so neither is cut off. -/
theorem getPfdAnswersTheExactPair : Obligations.GetPfdAnswersTheExactPair := by
  refine ⟨fun _ _ => performFrame_of_hdr 7#4 rfl, fun s => ?_⟩
  have num : pfdNum s < 2 ^ 64 := (pfdNum_lt s).trans (by decide)
  have den : pfdDen s < 2 ^ 64 := (pfdDen_lt s).trans (by decide)
  exact ⟨BitVec.ofNat 64 (pfdNum s), BitVec.ofNat 64 (pfdDen s), (BitVec.toNat_ofNat _ _).trans (Nat.mod_eq_of_lt num),
    (BitVec.toNat_ofNat _ _).trans (Nat.mod_eq_of_lt den), rfl⟩

end Sys2Proof.Machine
end

section
/-! PROOF. The session transitions (42_commands.md R189). -/

namespace Sys2Proof.Machine

theorem performFrame_of_isCfgRef {fr : Frame} (cfgRef : IsCfgRef fr) (s : State) :
    performFrame fr s =
      exec (.cfgRef (fr.a.extractLsb' 0 32) (fr.b.extractLsb' 0 10) (fr.b.getLsbD 16) (fr.b.getLsbD 17)) s :=
  performFrame_of_hdr 1#4 cfgRef s

theorem performFrame_of_isSetFreq {fr : Frame} (setFreq : IsSetFreq fr) (s : State) :
    performFrame fr s = exec (.setFreq fr.a fr.b) s :=
  performFrame_of_hdr 2#4 setFreq s

theorem Error.status_ne_ok (e : Error) : e.status ≠ .ok := by
  cases e <;> decide

/-- What a SET_FREQ leaves in the session: LOCKED when it succeeds, which needs a configured reference, and what stood
there when it fails. -/
theorem execSetFreq_sess {f sp : BitVec 64} {s t : State} (performed : execSetFreq f sp s = .next t) :
    (t.rspStatus = .ok ∧ s.sess ≠ .unconfigured ∧ t.sess = .locked) ∨ (t.rspStatus ≠ .ok ∧ t.sess = s.sess) := by
  rcases execSetFreq_cases f sp s with ⟨e, -, fails⟩ | ⟨p, planned, succeeds⟩
  · obtain rfl : raiseError e s = t := Host.Outcome.next.inj (fails.symm.trans performed)
    exact .inr ⟨e.status_ne_ok, rfl⟩
  · obtain rfl : lockPlan f p s = t := Host.Outcome.next.inj (succeeds.symm.trans performed)
    obtain ⟨-, config, -⟩ := plan_ok planned
    exact .inl ⟨rfl, ((configured_iff s).mp config).1, rfl⟩

/-- In UNCONFIGURED the range of the target alone decides the error (40_planner.md R102, R103, D12). -/
theorem execSetFreq_status_of_unconfigured {f sp : BitVec 64} {s t : State} (session : s.sess = .unconfigured)
    (performed : exec (.setFreq f sp) s = .next t) :
    t.rspStatus = if 35000000 ≤ f.toNat ∧ f.toNat ≤ 4400000000 then .planInfeasible else .outOfRange := by
  split_ifs with legal
  · have infeasible := (unconfiguredReferenceIsInfeasible f sp s legal).1 (.inl session)
    obtain rfl := Host.Outcome.next.inj (infeasible.symm.trans performed)
    rfl
  · have outside := (targetOutOfRangeIsRejected f sp s).1 (by omega)
    obtain rfl := Host.Outcome.next.inj (outside.symm.trans performed)
    rfl

/-- Every command but CFG_REF and SET_FREQ, and every ill-formed frame, leaves the session as it was. -/
theorem performFrame_sess_of_other {fr : Frame} {s t : State} (performed : performFrame fr s = .next t)
    (notCfgRef : ¬ IsCfgRef fr) (notSetFreq : ¬ IsSetFreq fr) : t.sess = s.sess := by
  obtain ⟨u, performs, outcome⟩ := performFrame_next fr s
  obtain rfl : u = t := Host.Outcome.next.inj (performs.symm.trans performed)
  rcases outcome with ⟨e, rfl⟩ | ⟨f, sp, p, decodes, -⟩ | ⟨ref, r, d, h, decodes, -⟩ | ⟨v, -, rfl⟩ | ⟨en, -, rfl⟩ |
    ⟨v, -, rfl⟩ | ⟨-, rfl⟩ | ⟨-, rfl⟩
  case inr.inl => exact absurd (hdr_eq_rowMatch decodes) notSetFreq
  case inr.inr.inl => exact absurd (hdr_eq_rowMatch decodes) notCfgRef
  all_goals rfl

/-- Settles O29: the two clauses about the status are one case split of `execSetFreq_sess`. -/
theorem sessionTransitions : Obligations.SessionTransitions := by
  intro fr s t performed
  refine ⟨fun cfgRef => ?_, fun setFreq ok => ?_, fun setFreq failed => ?_, fun setFreq session => ?_,
    performFrame_sess_of_other performed⟩
  · rw [performFrame_of_isCfgRef cfgRef, cfgRefWritesTheReference.2] at performed
    obtain rfl := Host.Outcome.next.inj performed
    rfl
  all_goals rw [performFrame_of_isSetFreq setFreq] at performed
  · obtain ⟨-, session⟩ | ⟨failed, -⟩ := execSetFreq_sess performed
    · exact session
    · exact absurd ok failed
  · obtain ⟨ok, -⟩ | ⟨-, session⟩ := execSetFreq_sess performed
    · exact absurd ok failed
    · exact session
  · exact execSetFreq_status_of_unconfigured session performed

end Sys2Proof.Machine
end

section
/-! PROOF. SET_FREQ (42_commands.md R182): the plan of an accepted target, value by value, and the six words it is
encoded to. -/

namespace Sys2Proof.Machine

/-- The divider is the power of two of its select code (40_planner.md R104). -/
theorem divSel_fst (f : Nat) : (divSel f).1 = 2 ^ (divSel f).2 := by
  rw [dividerIsTheFirstRowMet f]

/-- Below the first threshold the divider keeps the VCO frequency off the upper end of the window (R108). -/
theorem vco_lt_of_code_ne_zero {f : Nat} (divided : (divSel f).2 ≠ 0) : f * (divSel f).1 < 4400000000 := by
  rw [divSel_eq] at divided ⊢
  split_ifs at divided ⊢ <;> simp at divided ⊢ <;> omega

/-- The default spacing stands for an operand of 0 (R109). -/
theorem effectiveSpacing_toNat (sp : BitVec 64) :
    effectiveSpacing sp.toNat = if sp = 0 then 10000 else sp.toNat := by
  have zero : sp.toNat = 0 ↔ sp = 0 := BitVec.toNat_inj (y := 0)
  simp only [effectiveSpacing, zero]
  rfl

/-- The modulus of a plan: f_PFD over the spacing, rounded and clamped (R109, R111, R112). -/
theorem acceptedPlan_modulus (f : Nat) (sp : BitVec 64) (s : State) :
    (acceptedPlan f sp.toNat s).modulus =
      min (max (rhu (pfdNum s) (pfdDen s * if sp = 0 then 10000 else sp.toNat)) 1) 4095 := by
  rw [← effectiveSpacing_toNat]
  exact modConv_eq_max_min (pfdNum s) (pfdDen s) (effectiveSpacing sp.toNat)

theorem acceptedPlan_modulus_bounds (f sp : Nat) (s : State) :
    1 ≤ (acceptedPlan f sp s).modulus ∧ (acceptedPlan f sp s).modulus ≤ 4095 :=
  modConv_bounds _ _ _

/-- The carry leaves the fraction of a plan below its modulus (R115). -/
theorem acceptedPlan_nfrac_lt (f sp : Nat) (s : State) : (acceptedPlan f sp s).nfrac < (acceptedPlan f sp s).modulus :=
  (carry_spec _ _ (acceptedPlan_modulus_bounds f sp s).1).1

/-- Integer and fraction of a plan together count the modulus steps in the exact ratio, rounded (R110, R113, R114). -/
theorem acceptedPlan_steps (f sp : Nat) (s : State) :
    let p := acceptedPlan f sp s
    let t := f * (divSel f).1 * pfdDen s
    p.nint * p.modulus + p.nfrac = t / pfdNum s * p.modulus + rhu (t % pfdNum s * p.modulus) (pfdNum s) :=
  (carry_spec _ _ (acceptedPlan_modulus_bounds f sp s).1).2

/-- A flag that adds a constant to a word. -/
theorem toNat_decide_mul (P : Prop) [Decidable P] (n : Nat) : (decide P).toNat * n = if P then n else 0 := by
  split_ifs with h <;> simp [h]

/-! The words of a plan in ranges that fit the fields: nothing but the feedback integer is cut (41_encoder.md R141). -/

theorem encodeR0_toNat_of_fits {p : Plan} (fits : p.nfrac < 4096) :
    (encodeR0 p).toNat = p.nint % 65536 * 2 ^ 15 + p.nfrac * 2 ^ 3 := by
  rw [encodeR0_toNat]
  omega

theorem encodeR1_toNat_of_fits {p : Plan} (fits : p.modulus < 4096) (pre : p.pre = prescalerFlag p.nint) :
    (encodeR1 p).toNat = (if 75 ≤ p.nint then 2 ^ 27 else 0) + 2 ^ 15 + p.modulus * 2 ^ 3 + 1 := by
  have flag : p.pre.toNat * 2 ^ 27 = if 75 ≤ p.nint then 2 ^ 27 else 0 := by
    rw [pre]
    exact toNat_decide_mul (75 ≤ p.nint) (2 ^ 27)
  rw [encodeR1_toNat, flag]
  omega

theorem encodeR2_toNat_of_intn {p : Plan} (intn : p.intn = integerNFlag p.nfrac) (s : State) :
    (encodeR2 p s).toNat = s.dbl.toNat * 2 ^ 25 + s.div2.toNat * 2 ^ 24 + s.rCnt.toNat * 2 ^ 14 + s.cp.toNat * 2 ^ 9 +
      (if p.nfrac = 0 then 2 ^ 8 + 2 ^ 7 else 0) + 2 ^ 6 + 2 := by
  rw [encodeR2_toNat, intn, ← toNat_decide_mul, integerNFlag]
  ring

theorem encodeR4_toNat_of_fits {p : Plan} (fits : p.code < 8) (s : State) :
    (encodeR4 p s).toNat = p.code * 2 ^ 20 + 200 * 2 ^ 12 + s.outEn.toNat * 2 ^ 5 + s.pwr.toNat * 2 ^ 3 + 4 := by
  rw [encodeR4_toNat]
  omega

/-- Settles O24: the planner's three answers; in the third the witnesses are the values of `acceptedPlan`. -/
theorem setFreqPlansEncodesAndLocks : Obligations.SetFreqPlansEncodesAndLocks := by
  intro f sp s
  refine ⟨fun outside => ?_, fun legal unusable => ?_, fun legal session reference => ?_⟩
  · exact (targetOutOfRangeIsRejected f sp s).1 (by unfold LegalTarget at outside; omega)
  · exact (unconfiguredReferenceIsInfeasible f sp s legal).1 (unusable.imp_right fun zero => by simp [zero])
  · have range : inRange f.toNat = true := (inRange_iff f.toNat).mpr legal
    have config : configured s = true := (configured_iff s).mpr ⟨session, reference⟩
    have locks := execSetFreq_of_ok (plan_of_configured sp.toNat range config)
    have vco := ((vcoLegal_iff _).mp (vcoLegal_divSel f.toNat range)).1
    have divided := vco_lt_of_code_ne_zero (f := f.toNat)
    have steps := acceptedPlan_steps f.toNat sp.toNat s
    rw [divSel_fst] at vco divided steps
    have code := divSel_code_le f.toNat
    have modulus := acceptedPlan_modulus f.toNat sp s
    have nfrac := acceptedPlan_nfrac_lt f.toNat sp.toNat s
    have modulusFits := Nat.lt_succ_of_le (acceptedPlan_modulus_bounds f.toNat sp.toNat s).2
    let p := acceptedPlan f.toNat sp.toNat s
    refine ⟨p.code, p.nint, p.nfrac, p.modulus, encodeR0 p, encodeR1 p, encodeR2 p s, encodeR3, encodeR4 p s, encodeR5,
      ⟨code, vco, divided⟩, modulus, nfrac, steps, ?_, ?_, ?_, ?_, ?_, ?_, locks⟩
    · exact encodeR0_toNat_of_fits (nfrac.trans modulusFits)
    · exact encodeR1_toNat_of_fits modulusFits (planFields_pre ..)
    · exact encodeR2_toNat_of_intn (planFields_intn ..) s
    · rfl
    · exact encodeR4_toNat_of_fits (code.trans_lt (by decide)) s
    · rfl

end Sys2Proof.Machine
end

section
/-! PROOF. The errors (60_exceptions.md R224, R225): what an error leaves, and which status each frame is answered with. -/

namespace Sys2Proof.Machine

/-- Settles O27: the error response is `raiseError`; everything else a frame can leave has the status OK. -/
theorem errorsChangeOnlyTheResponse : Obligations.ErrorsChangeOnlyTheResponse := by
  intro fr s t performed failed
  obtain ⟨u, performs, outcome⟩ := performFrame_next fr s
  obtain rfl : u = t := Host.Outcome.next.inj (performs.symm.trans performed)
  rcases outcome with ⟨e, rfl⟩ | ⟨f, sp, p, -, -, rfl⟩ | ⟨ref, r, d, h, -, rfl⟩ | ⟨v, -, rfl⟩ | ⟨en, -, rfl⟩ |
    ⟨v, -, rfl⟩ | ⟨-, rfl⟩ | ⟨-, rfl⟩
  case inl => rfl
  all_goals exact absurd rfl failed

/-- A frame that is not ill-formed has one of the opcodes 1 to 7 for its whole header (30_encoding.md R72, R75). -/
theorem exists_opcode_of_not_illFormed {fr : Frame} (wellFormed : ¬ IllFormed fr) :
    ∃ op : BitVec 4, 1 ≤ op.toNat ∧ op.toNat ≤ 7 ∧ fr.hdr = op.setWidth 32 := by
  obtain ⟨low, high⟩ : 1 ≤ fr.hdr.toNat ∧ fr.hdr.toNat ≤ 7 := by
    unfold IllFormed at wellFormed
    omega
  have opcode : (headerOpcode fr.hdr).toNat = fr.hdr.toNat := by
    rw [headerOpcode_toNat, Nat.mod_eq_of_lt (by omega)]
  refine ⟨headerOpcode fr.hdr, opcode ▸ low, opcode ▸ high, BitVec.eq_of_toNat_eq ?_⟩
  rw [BitVec.toNat_setWidth_of_le (by decide), opcode]

/-- The commands other than SET_FREQ cannot fail (42_commands.md R181, R183 to R187). -/
theorem exec_decodeOpcode_status_ok {op : BitVec 4} {a b : BitVec 64} {s t : State} (low : 1 ≤ op.toNat)
    (high : op.toNat ≤ 7) (notSetFreq : op ≠ 2#4) (performed : exec (decodeOpcode op a b) s = .next t) :
    t.rspStatus = .ok := by
  have other : op.toNat ≠ 2 := fun setFreq => notSetFreq (BitVec.eq_of_toNat_eq setFreq)
  obtain ⟨⟨n, small⟩⟩ := op
  change 1 ≤ n at low
  change n ≤ 7 at high
  change n ≠ 2 at other
  obtain rfl | rfl | rfl | rfl | rfl | rfl : n = 1 ∨ n = 3 ∨ n = 4 ∨ n = 5 ∨ n = 6 ∨ n = 7 := by omega
  all_goals
    obtain rfl := Host.Outcome.next.inj performed
    rfl

/-- An outcome leaves one status. -/
theorem rspStatus_of_next {o : Host.Outcome State Fault Refusal} {t u : State} (performed : o = .next t)
    (answer : o = .next u) : t.rspStatus = u.rspStatus := by
  rw [Host.Outcome.next.inj (performed.symm.trans answer)]

/-- Settles O28: in each clause about an error or SET_FREQ the frame's answer is already known; the other commands are
those that cannot fail. -/
theorem statusFollowsTheErrorPriority : Obligations.StatusFollowsTheErrorPriority := by
  intro fr s t performed
  obtain ⟨outOfRange, infeasible, -⟩ := setFreqPlansEncodesAndLocks fr.a fr.b s
  refine ⟨fun illFormed => ?_, fun setFreq outside => ?_, fun setFreq legal unusable => ?_,
    fun setFreq legal session reference => ?_, fun wellFormed notSetFreq => ?_⟩
  · exact rspStatus_of_next performed (illFormedFrameAnswersBadCommand fr s illFormed)
  · exact rspStatus_of_next performed ((performFrame_of_isSetFreq setFreq s).trans (outOfRange outside))
  · exact rspStatus_of_next performed ((performFrame_of_isSetFreq setFreq s).trans (infeasible legal unusable))
  · have range : inRange fr.a.toNat = true := (inRange_iff fr.a.toNat).mpr legal
    have config : configured s = true := (configured_iff s).mpr ⟨session, reference⟩
    have locks := execSetFreq_of_ok (plan_of_configured fr.b.toNat range config)
    exact rspStatus_of_next performed ((performFrame_of_isSetFreq setFreq s).trans locks)
  · obtain ⟨op, low, high, hdr⟩ := exists_opcode_of_not_illFormed wellFormed
    rw [performFrame_of_hdr op hdr] at performed
    refine exec_decodeOpcode_status_ok low high ?_ performed
    rintro rfl
    exact notSetFreq hdr

end Sys2Proof.Machine
end

section
/-! PROOF. The values after reset (70_reset_and_hazards.md R250). -/

namespace Sys2Proof.Machine

/-- Settles O10: every plain element is read by its reset law, and an entry of the image through the image after reset,
which is unwritten as a whole (10_state.md R30). -/
theorem resetValuesOfEveryElement : Obligations.ResetValuesOfEveryElement :=
  have entriesUnwritten (i : Fin 6) : State.reset.img.get i = none := by
    rw [reset_img, Image.get_unwritten]
  ⟨reset_sess, reset_refHz, reset_rCnt, reset_dbl, reset_div2, reset_pwr, reset_outEn, reset_cp, reset_lastFreq,
    entriesUnwritten, reset_rspStatus, reset_rspA, reset_rspB, reset_bus⟩

end Sys2Proof.Machine
end

section
/-! PROOF. Reading back what is written (30_encoding.md R72, R73, R79): the strict reader of the bus stream takes every
field of an output pattern from its place, and the frame decoder every operand of a command. -/

namespace Sys2Proof

open Machine

/-- A bit of a vector whose value is known, as the flag it stands for. -/
theorem getLsbD_eq_of_toNat {n i : Nat} {x : BitVec n} {b : Bool} (h : x.toNat / 2 ^ i % 2 = b.toNat) :
    x.getLsbD i = b := by
  rw [getLsbD_eq_decide, h]
  cases b <;> rfl

/-- A field of a vector whose value is known. -/
theorem extractLsb'_eq_of_toNat {n lo len : Nat} {x : BitVec n} {y : BitVec len}
    (h : x.toNat / 2 ^ lo % 2 ^ len = y.toNat) : x.extractLsb' lo len = y :=
  BitVec.eq_of_toNat_eq ((toNat_field x lo len).trans h)

/-- A flag is one of two numbers. -/
theorem toNat_eq_zero_or_one (b : Bool) : b.toNat = 0 ∨ b.toNat = 1 := by
  cases b <;> decide

/-! The reader finds in each output pattern the row and the fields it was written from (41_encoder.md R142 to R147). -/

theorem outFields_r0Word (n : BitVec 16) (f : BitVec 12) : outFields (r0Word n f) = some (.r0 n f, r0Word n f) := by
  have value := r0Word_toNat n f
  have address : (r0Word n f).toNat % 8 = 0 := by omega
  have integer : (r0Word n f).extractLsb' 15 16 = n := extractLsb'_eq_of_toNat (by omega)
  have fraction : (r0Word n f).extractLsb' 3 12 = f := extractLsb'_eq_of_toNat (by omega)
  simp only [outFields, wordAddress_toNat, address, integer, fraction]

theorem outFields_r1Word (p : Bool) (m : BitVec 12) : outFields (r1Word p m) = some (.r1 p m, r1Word p m) := by
  have value := r1Word_toNat p m
  have address : (r1Word p m).toNat % 8 = 1 := by omega
  have prescaler : (r1Word p m).getLsbD 27 = p := getLsbD_eq_of_toNat (by have := p.toNat_lt; omega)
  have modulus : (r1Word p m).extractLsb' 3 12 = m := extractLsb'_eq_of_toNat (by omega)
  simp only [outFields, wordAddress_toNat, address, prescaler, modulus]

theorem outFields_r2Word (d h : Bool) (r : BitVec 10) (c : BitVec 4) (l : Bool) :
    outFields (r2Word d h r c l) = some (.r2 d h r c l, r2Word d h r c l) := by
  have value := r2Word_toNat d h r c l
  have flags := And.intro d.toNat_lt h.toNat_lt
  have lockBits := toNat_eq_zero_or_one l
  have address : (r2Word d h r c l).toNat % 8 = 2 := by omega
  have doubler : (r2Word d h r c l).getLsbD 25 = d := getLsbD_eq_of_toNat (by omega)
  have divider : (r2Word d h r c l).getLsbD 24 = h := getLsbD_eq_of_toNat (by omega)
  have counter : (r2Word d h r c l).extractLsb' 14 10 = r := extractLsb'_eq_of_toNat (by omega)
  have pump : (r2Word d h r c l).extractLsb' 9 4 = c := extractLsb'_eq_of_toNat (by omega)
  have lock : (r2Word d h r c l).getLsbD 8 = l := getLsbD_eq_of_toNat (by omega)
  simp only [outFields, wordAddress_toNat, address, doubler, divider, counter, pump, lock]

theorem outFields_r4Word (c : BitVec 3) (e : Bool) (p : BitVec 2) :
    outFields (r4Word c e p) = some (.r4 c e p, r4Word c e p) := by
  have value := r4Word_toNat c e p
  have flag := e.toNat_lt
  have address : (r4Word c e p).toNat % 8 = 4 := by omega
  have code : (r4Word c e p).extractLsb' 20 3 = c := extractLsb'_eq_of_toNat (by omega)
  have enable : (r4Word c e p).getLsbD 5 = e := getLsbD_eq_of_toNat (by omega)
  have power : (r4Word c e p).extractLsb' 3 2 = p := extractLsb'_eq_of_toNat (by omega)
  simp only [outFields, wordAddress_toNat, address, code, enable, power]

/-- Whatever an instruction is written as on the bus stream, the reader finds its row there. -/
theorem outFields_of_encode {i : Instr} {w : Word} (written : encode i = .output w) :
    outFields w = some (i, w) := by
  cases i
  case r0 nint nfrac => cases written; exact outFields_r0Word nint nfrac
  case r1 pre modulus => cases written; exact outFields_r1Word pre modulus
  case r2 d h r c l => cases written; exact outFields_r2Word d h r c l
  case r3 => cases written; rfl
  case r4 code en p => cases written; exact outFields_r4Word code en p
  case r5 => cases written; rfl
  all_goals cases written

/-- The pattern the reader compares a word with is the encoding of the row it found. -/
theorem encode_of_outFields {w pattern : Word} {i : Instr} (found : outFields w = some (i, pattern)) :
    encode i = .output pattern := by
  unfold outFields at found
  split at found <;> cases found <;> rfl

/-- The strict reader accepts exactly the encodings of the output rows. -/
theorem decodeOut_ok_iff {w : Word} {i : Instr} : decodeOut w = .ok i ↔ encode i = .output w := by
  refine ⟨fun accepted => ?_, fun written => ?_⟩
  · unfold decodeOut at accepted
    split at accepted
    · cases accepted
    · next found =>
      split_ifs at accepted with same
      obtain rfl := Except.ok.inj accepted
      rw [encode_of_outFields found, same]
  · simp only [decodeOut, outFields_of_encode written, if_true]

/-- Settles O2: `decodeOut_ok_iff`, and at the addresses 6 and 7 the reader finds no row. -/
theorem busReaderAcceptsOnlyEncodings : Obligations.BusReaderAcceptsOnlyEncodings := by
  refine fun w => ⟨fun i => decodeOut_ok_iff.mp, fun unused => ?_⟩
  have none : outFields w = none := Option.map_eq_none_iff.mp (outFormat_eq_none w unused)
  simp only [decodeOut, none]

/-- A frame whose whole header word is an opcode decodes by it (30_encoding.md R72). -/
theorem decode_opcode (op : BitVec 4) (a b : BitVec 64) :
    decode ⟨op.setWidth 32, a, b⟩ = .ok (decodeOpcode op a b) := by
  have value : (op.setWidth 32).toNat = op.toNat := BitVec.toNat_setWidth_of_le (by decide)
  rw [decode_hdr _ op.toNat op.isLt value, BitVec.ofNat_toNat, BitVec.setWidth_eq]

/-- The operands of CFG_REF, each at its place in A and B (30_encoding.md R73). -/
theorem decode_cfgRef_frame (ref : BitVec 32) (r : BitVec 10) (d h : Bool) :
    decode ⟨0x00000001#32, 0#32 ++ ref, cfgRefB r d h⟩ = .ok (.cfgRef ref r d h) := by
  have flags := And.intro d.toNat_lt h.toNat_lt
  have value : (cfgRefB r d h).toNat = h.toNat * 2 ^ 17 + d.toNat * 2 ^ 16 + r.toNat := by
    simp only [cfgRefB, toNat_append_add, toNat_ofBool_eq, BitVec.toNat_ofNat]
    omega
  have reference : (0#32 ++ ref).extractLsb' 0 32 = ref := BitVec.extractLsb'_append_eq_right
  have counter : (cfgRefB r d h).extractLsb' 0 10 = r := extractLsb'_eq_of_toNat (by omega)
  have doubler : (cfgRefB r d h).getLsbD 16 = d := getLsbD_eq_of_toNat (by omega)
  have divider : (cfgRefB r d h).getLsbD 17 = h := getLsbD_eq_of_toNat (by omega)
  calc decode ⟨0x00000001#32, 0#32 ++ ref, cfgRefB r d h⟩
    _ = .ok (.cfgRef _ _ _ _) := decode_opcode 1#4 (0#32 ++ ref) (cfgRefB r d h)
    _ = .ok (.cfgRef ref r d h) := by rw [reference, counter, doubler, divider]

theorem decode_setOutEn_frame (en : Bool) :
    decode ⟨0x00000004#32, 0#63 ++ BitVec.ofBool en, 0⟩ = .ok (.setOutEn en) := by
  cases en <;> rfl

/-- Whatever an instruction is written as at the command port decodes to it: CFG_REF and SET_OUTEN place their operands
in parts of A and B, the other commands whole or not at all. -/
theorem decode_of_encode {i : Instr} {fr : Frame} (written : encode i = .command fr) : decode fr = .ok i := by
  cases i
  case cfgRef ref r d h => cases written; exact decode_cfgRef_frame ref r d h
  case setOutEn en => cases written; exact decode_setOutEn_frame en
  case setFreq f sp => cases written; exact decode_opcode 2#4 f sp
  case setPower v => cases written; exact decode_opcode 3#4 v 0
  case setCp v => cases written; exact decode_opcode 5#4 v 0
  all_goals cases written <;> rfl

/-- Settles O1: the frame decoder and the strict reader each read back what is written for them. -/
theorem decodeReadsBackEveryEncoding : Obligations.DecodeReadsBackEveryEncoding := by
  intro i
  cases written : encode i with
  | command fr => rw [decodeEncoding, decode_of_encode written]; rfl
  | output w => rw [decodeEncoding, decodeOut_ok_iff.mpr written]; rfl

/-- Settles O3: the header is the opcode, and each field of an operand is a remainder or a bit test. -/
theorem commandFramesDecodeWithTheirOperands : Obligations.CommandFramesDecodeWithTheirOperands := by
  intro fr
  refine ⟨fun hdr => ?_, fun hdr => decode_hdr fr 2 (by decide) hdr, fun hdr => decode_hdr fr 3 (by decide) hdr,
    fun hdr => ?_, fun hdr => decode_hdr fr 5 (by decide) hdr, fun hdr => decode_hdr fr 6 (by decide) hdr,
    fun hdr => decode_hdr fr 7 (by decide) hdr⟩
  · have reference : fr.a.extractLsb' 0 32 = BitVec.ofNat 32 fr.a.toNat := by
      rw [extractLsb'_eq_ofNat_div, Nat.pow_zero, Nat.div_one]
    have counter : fr.b.extractLsb' 0 10 = BitVec.ofNat 10 fr.b.toNat := by
      rw [extractLsb'_eq_ofNat_div, Nat.pow_zero, Nat.div_one]
    rw [BitVec.testBit_toNat, BitVec.testBit_toNat, ← reference, ← counter]
    exact decode_hdr fr 1 (by decide) hdr
  · rw [BitVec.testBit_toNat]
    exact decode_hdr fr 4 (by decide) hdr

/-- Settles O6: eleven closed decodings, evaluated. -/
theorem writtenOutWordsDecode : Obligations.WrittenOutWordsDecode := by
  unfold Obligations.WrittenOutWordsDecode
  decide

end Sys2Proof
end

section
/-! PROOF. The encoder and the output rows (41_encoder.md R140 to R151): the words packed field by field are the table's
patterns of the six output rows, so the strict reader reads them back and the write sequence is the rows' emissions. -/

namespace Sys2Proof.Machine

/-! The packed words are the patterns of the table's rows. -/

theorem encodeR0_eq (p : Plan) : encodeR0 p = r0Word (BitVec.ofNat 16 p.nint) (BitVec.ofNat 12 p.nfrac) := by
  apply BitVec.eq_of_toNat_eq
  rw [encodeR0_toNat, r0Word_toNat, BitVec.toNat_ofNat, BitVec.toNat_ofNat]

theorem encodeR1_eq (p : Plan) : encodeR1 p = r1Word p.pre (BitVec.ofNat 12 p.modulus) := by
  apply BitVec.eq_of_toNat_eq
  rw [encodeR1_toNat, r1Word_toNat, BitVec.toNat_ofNat]

theorem encodeR2_eq (p : Plan) (s : State) : encodeR2 p s = r2Word s.dbl s.div2 s.rCnt s.cp p.intn := by
  apply BitVec.eq_of_toNat_eq
  rw [encodeR2_toNat, r2Word_toNat]

theorem encodeR3_eq : encodeR3 = r3Word := by decide

theorem encodeR4_eq (p : Plan) (s : State) : encodeR4 p s = r4Word (BitVec.ofNat 3 p.code) s.outEn s.pwr := by
  apply BitVec.eq_of_toNat_eq
  rw [encodeR4_toNat, r4Word_toNat, BitVec.toNat_ofNat]

theorem encodeR5_eq : encodeR5 = r5Word := by decide

/-- The words of the write sequence in bus order, R5 first (41_encoder.md R150). -/
def busWords (p : Plan) (s : State) : List Word :=
  [encodeR5, encodeR4 p s, encodeR3, encodeR2 p s, encodeR1 p, encodeR0 p]

/-- The words of the write sequence are what the six rows are written as. -/
theorem map_encode_outputRows (p : Plan) (s : State) :
    (outputRows p s).map encode = (busWords p s).map .output := by
  simp only [busWords, encodeR0_eq, encodeR1_eq, encodeR2_eq, encodeR3_eq, encodeR4_eq, encodeR5_eq]
  rfl

/-- Words that are written from rows are read back as them. -/
theorem map_decodeOut_of_map_encode {rows : List Instr} {words : List Word}
    (written : rows.map encode = words.map .output) : words.map decodeOut = rows.map .ok := by
  induction words generalizing rows with
  | nil => rw [List.map_eq_nil_iff.mp written]; rfl
  | cons w words ih =>
    obtain ⟨row, rows, rfl, head, tail⟩ := List.map_eq_cons_iff.mp written
    rw [List.map_cons, List.map_cons, decodeOut_ok_iff.mpr head, ih tail]

/-- The rows of a plan of the planner are well-formed while `r_cnt` is not 0 (41_encoder.md R141). -/
theorem outputRows_wellFormed {f sp : Nat} {s : State} {p : Plan} (planned : plan f sp s = .ok p)
    (counter : RCountPositive s) : ∀ i ∈ outputRows p s, i.wellFormed = true := by
  obtain ⟨-, -, rfl⟩ := plan_ok planned
  have code : (acceptedPlan f sp s).code ≤ 6 := divSel_code_le f
  have modulus := acceptedPlan_modulus_bounds f sp s
  have fraction := acceptedPlan_nfrac_lt f sp s
  have positive : s.rCnt.toNat ≠ 0 := BitVec.toNat_ne_iff_ne.mpr counter
  simp only [outputRows, List.forall_mem_cons, Instr.wellFormed, BitVec.toNat_ofNat, decide_eq_true_eq, List.not_mem_nil,
    true_and, false_implies, implies_true, and_true]
  omega

/-- Settles O49: the words are written from the rows, and the strict reader reads back what is written. -/
theorem emittedWordsReadBackAsTheirRows : Obligations.EmittedWordsReadBackAsTheirRows := fun p s =>
  ⟨map_decodeOut_of_map_encode (map_encode_outputRows p s), fun _ _ => outputRows_wellFormed⟩

/-- Settles O50: every field of a word stands above its bits [2:0]. -/
theorem wordsCarryTheirAddresses : Obligations.WordsCarryTheirAddresses := by
  intro p s
  obtain ⟨r0, r1, r2, r3, r4, r5⟩ := encoderPacksTheSixWords p s
  omega

/-- Both lock-detect bits of the word of register 2 are the integer-N flag (41_encoder.md R144). -/
theorem encodeR2_lockDetect (p : Plan) (s : State) :
    (encodeR2 p s).getLsbD 7 = p.intn ∧ (encodeR2 p s).getLsbD 8 = p.intn := by
  have value := encodeR2_toNat p s
  have flag := toNat_eq_zero_or_one p.intn
  exact ⟨getLsbD_eq_of_toNat (by omega), getLsbD_eq_of_toNat (by omega)⟩

/-- Settles O52: the integer-N flag of a plan marks the fraction 0. -/
theorem lockDetectBitsMarkIntegerN : Obligations.LockDetectBitsMarkIntegerN := by
  intro f sp s p planned
  obtain ⟨bit7, bit8⟩ := encodeR2_lockDetect p s
  refine ⟨?_, bit7.trans bit8.symm⟩
  show (encodeR2 p s).getLsbD 7 = true ∧ (encodeR2 p s).getLsbD 8 = true ↔ p.nfrac = 0
  rw [bit7, bit8, and_self]
  exact (planFlagsFollowTheCarriedValues f sp s p planned).2

/-- Settles O25: each row emits its pattern, whose value is known. -/
theorem outputRowsEmitTheirWord : Obligations.OutputRowsEmitTheirWord := by
  refine ⟨fun nint nfrac _ => ⟨_, r0Word_toNat nint nfrac, rfl⟩, fun pre modulus _ => ⟨_, r1Word_toNat pre modulus, rfl⟩,
    fun d h r c l _ => ⟨_, ?_, rfl⟩, fun _ => rfl, fun code en p _ => ⟨_, r4Word_toNat code en p, rfl⟩, fun _ => rfl⟩
  rw [r2Word_toNat]
  ring

/-- Six emissions, R5 first, append their words one by one and fill the image (41_encoder.md R150). -/
theorem emitRegister_six_eq_writeSeq (ws : Words) (s : State) :
    emitRegister 0 ws.w0 (emitRegister 1 ws.w1 (emitRegister 2 ws.w2 (emitRegister 3 ws.w3 (emitRegister 4 ws.w4
      (emitRegister 5 ws.w5 s))))) = writeSeq ws s := by
  simp [emitRegister, busEmit, writeSeq, Image.set]

/-- Settles O26: the row of each register emits its word. -/
theorem writeSequenceIsTheSixEmissions : Obligations.WriteSequenceIsTheSixEmissions := by
  intro p s
  rw [← emitRegister_six_eq_writeSeq]
  simp only [encodeWords, encodeR0_eq, encodeR1_eq, encodeR2_eq, encodeR3_eq, encodeR4_eq, encodeR5_eq]
  rfl

end Sys2Proof.Machine
end

section
/-! PROOF. What a frame and a step leave (42_commands.md R180; 10_state.md R40): the named cases of a frame's effect, the
elements each command keeps, and the step as the performing of the oldest presented frame. -/

namespace Sys2Proof.Machine

/-- What a frame can leave, one case a command: `performFrame_next` as a relation between the two states. -/
inductive FrameEffect (fr : Frame) (s : State) : State → Prop where
  | error (e : Error) : FrameEffect fr s (raiseError e s)
  | setFreq (f sp : BitVec 64) (p : Plan) (decodes : decode fr = .ok (.setFreq f sp))
      (planned : plan f.toNat sp.toNat s = .ok p) : FrameEffect fr s (lockPlan f p s)
  | cfgRef (ref : BitVec 32) (r : BitVec 10) (d h : Bool) (decodes : decode fr = .ok (.cfgRef ref r d h)) :
      FrameEffect fr s (respond .ok 0 0
        { s with refHz := ref, rCnt := rCounterOperand r, dbl := d, div2 := h, sess := .idle })
  | setPower (v : BitVec 64) (decodes : decode fr = .ok (.setPower v)) :
      FrameEffect fr s (respond .ok 0 0 { s with pwr := powerOperand v })
  | setOutEn (en : Bool) (decodes : decode fr = .ok (.setOutEn en)) :
      FrameEffect fr s (respond .ok 0 0 { s with outEn := en })
  | setCp (v : BitVec 64) (decodes : decode fr = .ok (.setCp v)) :
      FrameEffect fr s (respond .ok 0 0 { s with cp := chargePumpOperand v })
  | getFreq (decodes : decode fr = .ok .getFreq) : FrameEffect fr s (respond .ok s.lastFreq 0 s)
  | getPfd (decodes : decode fr = .ok .getPfd) :
      FrameEffect fr s (respond .ok (BitVec.ofNat 64 (pfdNum s)) (BitVec.ofNat 64 (pfdDen s)) s)

theorem performFrame_effect {fr : Frame} {s t : State} (performed : performFrame fr s = .next t) :
    FrameEffect fr s t := by
  obtain ⟨u, performs, outcome⟩ := performFrame_next fr s
  obtain rfl : u = t := Host.Outcome.next.inj (performs.symm.trans performed)
  rcases outcome with ⟨e, rfl⟩ | ⟨f, sp, p, decodes, planned, rfl⟩ | ⟨ref, r, d, h, decodes, rfl⟩ | ⟨v, decodes, rfl⟩ |
    ⟨en, decodes, rfl⟩ | ⟨v, decodes, rfl⟩ | ⟨decodes, rfl⟩ | ⟨decodes, rfl⟩
  · exact .error e
  · exact .setFreq f sp p decodes planned
  · exact .cfgRef ref r d h decodes
  · exact .setPower v decodes
  · exact .setOutEn en decodes
  · exact .setCp v decodes
  · exact .getFreq decodes
  · exact .getPfd decodes

/-! The access matrix, element by element: the one command that writes it has one header. -/

theorem performFrame_reference {fr : Frame} {s t : State} (performed : performFrame fr s = .next t)
    (other : ¬ IsCfgRef fr) : t.refHz = s.refHz ∧ t.rCnt = s.rCnt ∧ t.dbl = s.dbl ∧ t.div2 = s.div2 := by
  cases performFrame_effect performed with
  | cfgRef ref r d h decodes => exact absurd (hdr_eq_rowMatch decodes) other
  | _ => exact ⟨rfl, rfl, rfl, rfl⟩

theorem performFrame_pwr {fr : Frame} {s t : State} (performed : performFrame fr s = .next t)
    (other : fr.hdr ≠ 0x00000003#32) : t.pwr = s.pwr := by
  cases performFrame_effect performed with
  | setPower v decodes => exact absurd (hdr_eq_rowMatch decodes) other
  | _ => rfl

theorem performFrame_outEn {fr : Frame} {s t : State} (performed : performFrame fr s = .next t)
    (other : fr.hdr ≠ 0x00000004#32) : t.outEn = s.outEn := by
  cases performFrame_effect performed with
  | setOutEn en decodes => exact absurd (hdr_eq_rowMatch decodes) other
  | _ => rfl

theorem performFrame_cp {fr : Frame} {s t : State} (performed : performFrame fr s = .next t)
    (other : fr.hdr ≠ 0x00000005#32) : t.cp = s.cp := by
  cases performFrame_effect performed with
  | setCp v decodes => exact absurd (hdr_eq_rowMatch decodes) other
  | _ => rfl

theorem performFrame_outputs {fr : Frame} {s t : State} (performed : performFrame fr s = .next t)
    (other : ¬ (IsSetFreq fr ∧ t.rspStatus = .ok)) : t.lastFreq = s.lastFreq ∧ t.img = s.img ∧ t.bus = s.bus := by
  cases performFrame_effect performed with
  | setFreq f sp p decodes planned => exact absurd ⟨hdr_eq_rowMatch decodes, rfl⟩ other
  | _ => exact ⟨rfl, rfl, rfl⟩

theorem performFrame_port {fr : Frame} {s t : State} (performed : performFrame fr s = .next t) : t.port = s.port := by
  cases performFrame_effect performed <;> rfl

/-- Settles O30: the elements one by one. -/
theorem onlyTheNamedCommandWritesAnElement : Obligations.OnlyTheNamedCommandWritesAnElement := fun _ _ _ performed =>
  ⟨performFrame_reference performed, performFrame_pwr performed, performFrame_outEn performed,
    performFrame_cp performed, performFrame_outputs performed, performFrame_port performed⟩

/-! The step (log entries 1 to 3). -/

theorem step_of_port_nil {s : State} (port : s.port = []) : step s = .next s := by
  rw [step, stepPort, fetch_nil s port]

theorem step_of_port_cons {s : State} {fr : Frame} {rest : List Frame} (port : s.port = fr :: rest) :
    step s = performFrame fr { s with port := rest } := by
  rw [step, stepPort, fetch_cons s fr rest port]

theorem performFrame_of_decode {fr : Frame} {i : Instr} (decodes : decode fr = .ok i) (s : State) :
    performFrame fr s = exec i s := by
  rw [performFrame, decodes]

theorem performFrame_of_decode_error {fr : Frame} {e : DecodeReject} (rejected : decode fr = .error e) (s : State) :
    performFrame fr s = badCommandStep s := by
  rw [performFrame, rejected]

theorem decode_of_decodeTableWord {nbits w : Nat} {i : Instr} (decodes : decodeTableWord nbits w = some i) :
    decode (frameOfTableWord nbits w) = .ok i := by
  unfold decodeTableWord at decodes
  cases h : decode (frameOfTableWord nbits w) with
  | ok j => rw [h] at decodes; exact congrArg Except.ok (Option.some.inj decodes)
  | error e => rw [h] at decodes; cases decodes

/-- Settles O7: a table word stands at the head of the port, so the step takes it off again. -/
theorem stepPerformsTheDecodedCommand : Obligations.StepPerformsTheDecodedCommand := by
  refine ⟨fun s fr rest i port decodes => ?_, fun s fr rest e port rejected => ?_, fun s => step_of_port_nil,
    fun s nbits w i decodes => ?_⟩
  · rw [step_of_port_cons port, performFrame_of_decode decodes]
  · rw [step_of_port_cons port, performFrame_of_decode_error rejected]
    rfl
  · have port : (s.withFetchWord nbits w).port = frameOfTableWord nbits w :: s.port := rfl
    rw [step_of_port_cons port, performFrame_of_decode (decode_of_decodeTableWord decodes)]
    rfl

/-- Settles O8: every frame answers a next state, and none touches the frames behind it. -/
theorem noStepStopsTheBlock : Obligations.NoStepStopsTheBlock := by
  intro s
  cases port : s.port with
  | nil => exact ⟨s, step_of_port_nil port, port⟩
  | cons fr rest =>
    obtain ⟨t, performs, -⟩ := performFrame_next fr { s with port := rest }
    exact ⟨t, (step_of_port_cons port).trans performs, performFrame_port performs⟩

/-- Settles O21: the nine rows have one meaning, the BadCommand response. -/
theorem reservedOpcodesAnswerBadCommand : Obligations.ReservedOpcodesAnswerBadCommand := by
  intro i s reserved
  simp only [List.mem_cons, List.not_mem_nil, or_false] at reserved
  rcases reserved with rfl | rfl | rfl | rfl | rfl | rfl | rfl | rfl | rfl <;> rfl

end Sys2Proof.Machine
end

section
/-! PROOF. The invariant of the block (10_state.md R36; 20_memory.md R51, R57, R62; 42_commands.md R190): it holds after
reset, and every frame keeps it. A successful SET_FREQ is the one command that has to work for it: it appends one group of
six words, the last of each address. -/

namespace Sys2Proof.Machine

open Sys2Proof.Laws.TableRow (wordAddress_append)

@[simp] theorem wordAddress_encodeR0 (p : Plan) : wordAddress (encodeR0 p) = 0 := by
  rw [encodeR0_eq]; exact wordAddress_append _ _

@[simp] theorem wordAddress_encodeR1 (p : Plan) : wordAddress (encodeR1 p) = 1 := by
  rw [encodeR1_eq]; exact wordAddress_append _ _

@[simp] theorem wordAddress_encodeR2 (p : Plan) (s : State) : wordAddress (encodeR2 p s) = 2 := by
  rw [encodeR2_eq]; exact wordAddress_append _ _

@[simp] theorem wordAddress_encodeR3 : wordAddress encodeR3 = 3 := by decide

@[simp] theorem wordAddress_encodeR4 (p : Plan) (s : State) : wordAddress (encodeR4 p s) = 4 := by
  rw [encodeR4_eq]; exact wordAddress_append _ _

@[simp] theorem wordAddress_encodeR5 : wordAddress encodeR5 = 5 := by decide

/-- A write sequence is one group of the bus stream (20_memory.md R57). -/
theorem map_wordAddress_busWords (p : Plan) (s : State) : (busWords p s).map wordAddress = [5, 4, 3, 2, 1, 0] := by
  simp [busWords]

/-- The image a write sequence leaves holds its word of each address (20_memory.md R62). -/
theorem lastWithAddress_busWords (p : Plan) (s : State) (i : Fin 6) :
    lastWithAddress i (busWords p s) = (writeSeq (encodeWords p s) s).img.get i := by
  fin_cases i <;> simp [lastWithAddress, busWords, encodeWords, Image.get]

theorem lastWithAddress_append (i : Fin 6) (bus ws : List Word) :
    lastWithAddress i (bus ++ ws) = (lastWithAddress i ws).or (lastWithAddress i bus) := by
  simp [lastWithAddress, List.filter_append, List.getLast?_append]

theorem writeSeq_img_get_isSome (ws : Words) (s : State) (i : Fin 6) :
    ∃ w, (writeSeq ws s).img.get i = some w := by
  fin_cases i <;> exact ⟨_, rfl⟩

theorem BusWellAddressed.append {s t : State} {ws : List Word} (kept : BusWellAddressed s) (bus : t.bus = s.bus ++ ws)
    (addresses : ws.map wordAddress = [5, 4, 3, 2, 1, 0]) : BusWellAddressed t := by
  intro w mem
  rw [bus, List.mem_append] at mem
  rcases mem with old | new
  · exact kept w old
  · have address : wordAddress w ∈ [5#3, 4, 3, 2, 1, 0] := addresses ▸ List.mem_map_of_mem new
    revert address
    generalize wordAddress w = a
    revert a
    decide

theorem BusGrouped.append {s t : State} {ws : List Word} (kept : BusGrouped s) (bus : t.bus = s.bus ++ ws)
    (addresses : ws.map wordAddress = [5, 4, 3, 2, 1, 0]) : BusGrouped t := by
  obtain ⟨k, groups⟩ := kept
  refine ⟨k + 1, ?_⟩
  rw [bus, List.map_append, groups, addresses, List.replicate_succ', List.flatten_concat]

/-- The invariant reads six elements of the state. -/
theorem Inv.of_same {s t : State} (inv : Inv s) (rCnt : t.rCnt = s.rCnt) (bus : t.bus = s.bus) (img : t.img = s.img)
    (sess : t.sess = s.sess) (refHz : t.refHz = s.refHz) (lastFreq : t.lastFreq = s.lastFreq) : Inv t := by
  obtain ⟨counter, addressed, grouped, image,
    ⟨unconfigured, reference, full, target, targetZero, targetLegal⟩⟩ := inv
  unfold RCountPositive BusWellAddressed BusGrouped ImageCoherent at *
  rw [← rCnt] at counter
  simp only [← bus, ← img, ← sess, ← refHz, ← lastFreq] at *
  exact ⟨counter, addressed, grouped, image,
    ⟨unconfigured, reference, full, target, targetZero, targetLegal⟩⟩

/-- CFG_REF leaves IDLE, of which the session part of the invariant says nothing, and never a counter of 0. -/
theorem inv_cfgRef {s : State} (inv : Inv s) (ref : BitVec 32) (r : BitVec 10) (d h : Bool) :
    Inv (respond .ok 0 0 { s with refHz := ref, rCnt := rCounterOperand r, dbl := d, div2 := h, sess := .idle }) where
  rCount := rCounterOperand_ne_zero r
  addressed := inv.addressed
  grouped := inv.grouped
  image := inv.image
  session :=
    { unconfigured := nofun
      lockedReference := nofun
      lockedImage := nofun
      lockedTarget := nofun
      targetZero := inv.session.targetZero
      targetLegal := inv.session.targetLegal }

theorem LegalTarget.ne_zero {f : BitVec 64} (legal : LegalTarget f.toNat) : f ≠ 0 := by
  rintro rfl
  exact absurd legal.1 (by decide)

/-- A successful SET_FREQ: the reference it needs is nonzero, its target is legal, and its words fill the image. -/
theorem inv_lockPlan {s : State} (inv : Inv s) {f sp : BitVec 64} {p : Plan}
    (planned : plan f.toNat sp.toNat s = .ok p) : Inv (lockPlan f p s) := by
  obtain ⟨range, config, -⟩ := plan_ok planned
  have legal : LegalTarget f.toNat := (inRange_iff _).mp range
  have bus : (lockPlan f p s).bus = s.bus ++ busWords p s := rfl
  have emitted : (lockPlan f p s).bus ≠ [] := by simp
  have full := writeSeq_img_get_isSome (encodeWords p s) s
  refine
    { rCount := inv.rCount
      addressed := inv.addressed.append bus (map_wordAddress_busWords p s)
      grouped := inv.grouped.append bus (map_wordAddress_busWords p s)
      image := fun i => ?_
      session :=
        { unconfigured := nofun
          lockedReference := fun _ => ((configured_iff s).mp config).2
          lockedImage := fun _ i => ?_
          lockedTarget := fun _ => legal.ne_zero
          targetZero := iff_of_false legal.ne_zero emitted
          targetLegal := fun _ => legal } }
  · obtain ⟨w, entry⟩ := full i
    rw [bus, lastWithAddress_append, lastWithAddress_busWords, lockPlan_img, entry, Option.some_or]
  · obtain ⟨w, entry⟩ := full i
    rw [lockPlan_img, entry]
    exact Option.some_ne_none w

theorem performFrame_keeps_inv {fr : Frame} {s t : State} (inv : Inv s) (performed : performFrame fr s = .next t) :
    Inv t := by
  cases performFrame_effect performed with
  | setFreq f sp p decodes planned => exact inv_lockPlan inv planned
  | cfgRef ref r d h decodes => exact inv_cfgRef inv ref r d h
  | _ => exact inv.of_same rfl rfl rfl rfl rfl rfl

/-- Settles O12: taking a frame from the port changes nothing the invariant reads, and performing it keeps the
invariant. -/
theorem everyStepKeepsTheInvariant : Obligations.EveryStepKeepsTheInvariant := by
  intro s t inv stepped
  cases port : s.port with
  | nil =>
    obtain rfl := Host.Outcome.next.inj ((step_of_port_nil port).symm.trans stepped)
    exact inv
  | cons fr rest =>
    have taken : Inv { s with port := rest } := inv.of_same rfl rfl rfl rfl rfl rfl
    exact performFrame_keeps_inv taken ((step_of_port_cons port).symm.trans stepped)

/-- Settles O11: after reset the stream is empty, the image unwritten and the session UNCONFIGURED. -/
theorem resetMeetsTheInvariant : Obligations.ResetMeetsTheInvariant where
  rCount := by simp [RCountPositive]
  addressed := by simp [BusWellAddressed]
  grouped := ⟨0, rfl⟩
  image i := by rw [reset_img, Image.get_unwritten]; rfl
  session := by constructor <;> simp

/-- The last word with an address stands on the stream and has that address. -/
theorem mem_of_lastWithAddress {i : Fin 6} {bus : List Word} {w : Word} (last : lastWithAddress i bus = some w) :
    w ∈ bus ∧ wordAddress w = BitVec.ofNat 3 i.val := by
  have mem := List.mem_of_getLast? last
  simpa using List.mem_filter.mp mem

/-- Settles O13: a LOCKED image is full, and each entry is the last word emitted with its address. -/
theorem lockedImageReadsBack : Obligations.LockedImageReadsBack := by
  intro s i inv locked
  obtain ⟨w, entry⟩ := Option.ne_none_iff_exists'.mp (inv.session.lockedImage locked i)
  obtain ⟨mem, address⟩ := mem_of_lastWithAddress ((inv.image i).symm.trans entry)
  refine ⟨w, by rw [readImage, entry], ?_, mem⟩
  rw [address, BitVec.toNat_ofNat]
  omega

/-- Settles O14: after reset no entry holds a word, after a write sequence each does. -/
theorem unwrittenImageReadFaults : Obligations.UnwrittenImageReadFaults := by
  refine ⟨fun i => ?_, fun i ws s => ?_⟩
  · rw [readImage, reset_img, Image.get_unwritten]
  · obtain ⟨w, entry⟩ := writeSeq_img_get_isSome ws s i
    exact ⟨w, by rw [readImage, entry]⟩

end Sys2Proof.Machine
end

section
/-! PROOF. The elements no command reads (10_state.md R30, R33), and the run of frames as the run of steps
(20_memory.md R58; 70_reset_and_hazards.md R260). -/

namespace Sys2Proof.Machine

/-- A state with another image, bus stream and list of presented frames. -/
def withUnread (m : Image) (bus : List Word) (port : List Frame) (s : State) : State :=
  { s with img := m, bus := bus, port := port }

theorem plan_withUnread (f sp : Nat) (m : Image) (bus : List Word) (port : List Frame) (s : State) :
    plan f sp (withUnread m bus port s) = plan f sp s :=
  plannerReadsOnlyTheReference f sp s (withUnread m bus port s) rfl rfl rfl rfl rfl

/-- What `perform` leaves in `t` stays so when the image, stream and port of `s` are others: the others stay where
nothing is emitted, and where something is, the same words are appended and the image is the one they fill. -/
def SameUnread (perform : State → Host.Outcome State Fault Refusal) (s t : State) : Prop :=
  ∀ (m : Image) (bus : List Word) (port : List Frame),
    (t.bus = s.bus ∧ t.img = s.img ∧ perform (withUnread m bus port s) = .next (withUnread m bus port t)) ∨
    ∃ new, new ≠ [] ∧ t.bus = s.bus ++ new ∧
      perform (withUnread m bus port s) = .next (withUnread t.img (bus ++ new) port t)

theorem execSetFreq_sameUnread {f sp : BitVec 64} {s t : State} (performed : execSetFreq f sp s = .next t) :
    SameUnread (execSetFreq f sp) s t := by
  intro m bus port
  have unread := plan_withUnread f.toNat sp.toNat m bus port s
  rcases execSetFreq_cases f sp s with ⟨e, failed, fails⟩ | ⟨p, planned, succeeds⟩
  · obtain rfl := Host.Outcome.next.inj (fails.symm.trans performed)
    exact .inl ⟨rfl, rfl, execSetFreq_of_error (unread.trans failed)⟩
  · obtain rfl := Host.Outcome.next.inj (succeeds.symm.trans performed)
    exact .inr ⟨busWords p s, List.cons_ne_nil _ _, rfl, execSetFreq_of_ok (unread.trans planned)⟩

/-- SET_FREQ alone has to read something before it answers; every other command writes what it writes. -/
theorem performFrame_sameUnread {fr : Frame} {s t : State} (performed : performFrame fr s = .next t) :
    SameUnread (performFrame fr) s t := by
  intro m bus port
  rcases performFrame_cases fr with bad | ⟨i, -, performs, command⟩
  · obtain rfl := Host.Outcome.next.inj ((bad s).symm.trans performed)
    exact .inl ⟨rfl, rfl, bad _⟩
  · rw [performs] at performed ⊢
    rcases command with ⟨ref, r, d, h, rfl⟩ | ⟨f, sp, rfl⟩ | ⟨v, rfl⟩ | ⟨en, rfl⟩ | ⟨v, rfl⟩ | rfl | rfl
    on_goal 2 => exact execSetFreq_sameUnread performed m bus port
    all_goals
      obtain rfl := Host.Outcome.next.inj performed
      exact .inl ⟨rfl, rfl, rfl⟩

/-- Settles O32: the two cases of `performFrame_sameUnread`, with the port as it was. -/
theorem imageAndBusAreNeverRead : Obligations.ImageAndBusAreNeverRead := by
  intro fr s t m bus performed
  have samePort := performFrame_port performed
  rcases performFrame_sameUnread performed m bus s.port with ⟨sameBus, sameImg, other⟩ | ⟨new, some, appended, other⟩
  · exact ⟨_, [], other, by rw [withUnread, samePort], by rw [sameBus, List.append_nil], (List.append_nil bus).symm,
      fun _ => ⟨sameImg, rfl⟩, fun emitted => absurd rfl emitted⟩
  · exact ⟨_, new, other, by rw [withUnread, samePort], appended, rfl, fun none => absurd none some, fun _ => rfl⟩

/-- The frames that wait behind a frame do not change what it does. -/
theorem performFrame_withPort {fr : Frame} {s t : State} (performed : performFrame fr s = .next t)
    (port : List Frame) : performFrame fr { s with port := port } = .next { t with port := port } := by
  rcases performFrame_sameUnread performed s.img s.bus port with ⟨sameBus, sameImg, other⟩ | ⟨new, -, appended, other⟩
  · have same : withUnread s.img s.bus port t = { t with port := port } := by rw [withUnread, ← sameBus, ← sameImg]
    exact other.trans (congrArg _ same)
  · rwa [withUnread, withUnread, ← appended] at other

/-- The host's run takes one step at a time. -/
theorem coreRun_succ_of_step {s t : State} (k : Nat) (stepped : step s = .next t) :
    Host.Core.run core (k + 1) s = Host.Core.run core k t := by
  have stepped : core.step s = .next t := stepped
  simp only [Host.Core.run, stepped]

/-- A run of a frame and more is the frame's effect followed by the run of the rest. -/
theorem runFrames_cons_of_next {fr : Frame} {frs : List Frame} {s u t : State} {rs : List Response}
    (performed : performFrame fr s = .next u) (rest : runFrames frs u = .next (t, rs)) :
    runFrames (fr :: frs) s = .next (t, u.response :: rs) := by
  rw [runFrames, performed]
  simp only [rest]

/-- Settles O9: by induction on the frames; the frames that wait do not change what a step does. -/
theorem runOfFramesIsTheRunOfSteps : Obligations.RunOfFramesIsTheRunOfSteps := by
  intro frs
  induction frs with
  | nil =>
    intro s port
    have same : { s with port := [] } = s := by rw [← port]
    exact ⟨s, [], rfl, rfl, congrArg _ same⟩
  | cons fr frs ih =>
    intro s port
    obtain ⟨u, performs, -⟩ := performFrame_next fr s
    obtain ⟨t, rs, ran, count, steps⟩ := ih u ((performFrame_port performs).trans port)
    refine ⟨t, u.response :: rs, runFrames_cons_of_next performs ran, congrArg Nat.succ count, ?_⟩
    have stepped : step { s with port := fr :: frs } = .next { u with port := frs } :=
      (step_of_port_cons rfl).trans (performFrame_withPort performs frs)
    exact (coreRun_succ_of_step frs.length stepped).trans steps

end Sys2Proof.Machine
end

section
/-! PROOF. What a successful SET_FREQ emits (41_encoder.md R150, R153; 20_memory.md R57, R61). -/

namespace Sys2Proof.Machine

/-- The addresses of a write sequence, read as remainders. -/
theorem map_toNat_mod_busWords (p : Plan) (s : State) :
    (busWords p s).map (fun w => w.toNat % 8) = [5, 4, 3, 2, 1, 0] :=
  calc (busWords p s).map (fun w => w.toNat % 8)
    _ = ((busWords p s).map wordAddress).map BitVec.toNat := by simp [wordAddress_toNat]
    _ = [5, 4, 3, 2, 1, 0] := by rw [map_wordAddress_busWords]; rfl

/-- Settles O33: SET_FREQ is the one command that emits, and its six words carry their addresses. -/
theorem busGrowsByWholeWriteSequences : Obligations.BusGrowsByWholeWriteSequences := by
  intro s t stepped
  rcases step_cases s with ⟨-, idle⟩ | ⟨fr, rest, -, performs⟩
  · obtain rfl := Host.Outcome.next.inj (idle.symm.trans stepped)
    exact .inl rfl
  · cases performFrame_effect (performs.symm.trans stepped) with
    | setFreq f sp p decodes planned =>
      exact .inr ⟨_, _, _, _, _, _, rfl, map_toNat_mod_busWords p { s with port := rest }⟩
    | _ => exact .inl rfl

/-- A SET_FREQ that leaves the status OK had a plan, and its effect is the whole of `lockPlan`. -/
theorem lockPlan_of_status_ok {f sp : BitVec 64} {s t : State} (performed : exec (.setFreq f sp) s = .next t)
    (ok : t.rspStatus = .ok) : ∃ p, plan f.toNat sp.toNat s = .ok p ∧ t = lockPlan f p s := by
  rcases execSetFreq_cases f sp s with ⟨e, -, fails⟩ | ⟨p, planned, succeeds⟩
  · obtain rfl := Host.Outcome.next.inj (fails.symm.trans performed)
    exact absurd ok e.status_ne_ok
  · exact ⟨p, planned, Host.Outcome.next.inj (performed.symm.trans succeeds)⟩

/-- The planner answers the same plan after a successful SET_FREQ: the reference registers are as they were, and the
session is configured before and after. -/
theorem plan_lockPlan {f sp : BitVec 64} {s : State} {p : Plan} (planned : plan f.toNat sp.toNat s = .ok p) :
    plan f.toNat sp.toNat (lockPlan f p s) = .ok p := by
  obtain ⟨-, config, -⟩ := plan_ok planned
  obtain ⟨-, reference⟩ := (configured_iff s).mp config
  have still : configured (lockPlan f p s) = true := (configured_iff _).mpr ⟨nofun, reference⟩
  rw [← planned]
  exact plan_congr _ _ (still.trans config.symm) rfl rfl

/-- Settles O34: the same plan and the same configuration give the same six words, and all else is written already. -/
theorem repeatedSetFreqEmitsTheSameWords : Obligations.RepeatedSetFreqEmitsTheSameWords := by
  intro f sp s t performed ok
  obtain ⟨p, planned, rfl⟩ := lockPlan_of_status_ok performed ok
  exact ⟨busWords p s, rfl, rfl, execSetFreq_of_ok (plan_lockPlan planned)⟩

/-! The static settings, read off the words that carry them (41_encoder.md R144, R146). -/

theorem encodeR4_power (p : Plan) (s : State) : (encodeR4 p s).toNat / 2 ^ 3 % 4 = s.pwr.toNat := by
  rw [encodeR4_toNat]
  omega

theorem encodeR4_enable (p : Plan) (s : State) : (encodeR4 p s).toNat / 2 ^ 5 % 2 = s.outEn.toNat := by
  have enable := s.outEn.toNat_lt
  rw [encodeR4_toNat]
  omega

theorem encodeR2_pump (p : Plan) (s : State) : (encodeR2 p s).toNat / 2 ^ 9 % 16 = s.cp.toNat := by
  have lock := toNat_eq_zero_or_one p.intn
  rw [encodeR2_toNat]
  omega

/-- Settles O35: the words of the second command are packed from the state the first has left. -/
theorem staticSettingsWaitForTheNextSetFreq : Obligations.StaticSettingsWaitForTheNextSetFreq := by
  intro f sp s t u performed ok
  obtain ⟨p, -, rfl⟩ := lockPlan_of_status_ok performed ok
  have r4 : encodeR4 p t ∈ (lockPlan f p t).bus := by simp
  have r2 : encodeR2 p t ∈ (lockPlan f p t).bus := by simp
  refine ⟨fun v setPower => ?_, fun en setOutEn => ?_, fun v setCp => ?_⟩
  · obtain rfl := Host.Outcome.next.inj setPower
    exact ⟨rfl, encodeR4 p _, rfl, r4, by rw [encodeR4_power]; exact powerOperand_toNat v⟩
  · obtain rfl := Host.Outcome.next.inj setOutEn
    exact ⟨rfl, encodeR4 p _, rfl, r4, encodeR4_enable p _⟩
  · obtain rfl := Host.Outcome.next.inj setCp
    exact ⟨rfl, encodeR2 p _, rfl, r2, by rw [encodeR2_pump]; exact chargePumpOperand_toNat v⟩

end Sys2Proof.Machine
end

section
/-! PROOF. What a run from reset has left (42_commands.md R190; 70_reset_and_hazards.md R252): each fact is what one frame
does to it, carried along the frames by induction. -/

namespace Sys2Proof.Machine

@[simp] theorem response_status (s : State) : s.response.status = s.rspStatus := rfl

/-- The run of a frame and more, taken apart. -/
theorem runFrames_cons_next {fr : Frame} {frs : List Frame} {s t : State} {rs : List Response}
    (ran : runFrames (fr :: frs) s = .next (t, rs)) :
    ∃ u rest, performFrame fr s = .next u ∧ runFrames frs u = .next (t, rest) ∧ rs = u.response :: rest := by
  obtain ⟨u, performs, -⟩ := performFrame_next fr s
  rw [runFrames, performs] at ran
  dsimp only at ran
  split at ran
  · cases ran
  · cases ran
  · next rest => cases ran; exact ⟨u, _, performs, rest, rfl⟩

/-! Places in a run whose first frame is known. -/

/-- No CFG_REF stands behind place `n`. -/
def NoCfgRefAfter (frs : List Frame) (n : Nat) : Prop := ∀ m fr, n < m → frs[m]? = some fr → ¬ IsCfgRef fr

theorem noCfgRefAfter_cons_zero (fr : Frame) (frs : List Frame) :
    NoCfgRefAfter (fr :: frs) 0 ↔ ∀ later ∈ frs, ¬ IsCfgRef later := by
  refine ⟨fun none later mem => ?_, fun none m later behind place => ?_⟩
  · obtain ⟨n, place⟩ := List.mem_iff_getElem?.mp mem
    exact none (n + 1) later n.succ_pos place
  · obtain ⟨n, rfl⟩ := Nat.exists_eq_succ_of_ne_zero behind.ne'
    exact none later (List.mem_of_getElem? place)

theorem noCfgRefAfter_cons_succ (fr : Frame) (frs : List Frame) (n : Nat) :
    NoCfgRefAfter (fr :: frs) (n + 1) ↔ NoCfgRefAfter frs n := by
  refine ⟨fun none m later behind place => none (m + 1) later (Nat.succ_lt_succ behind) place,
    fun none m later behind place => ?_⟩
  obtain ⟨k, rfl⟩ := Nat.exists_eq_succ_of_ne_zero (Nat.ne_zero_of_lt behind)
  exact none k later (Nat.lt_of_succ_lt_succ behind) place

theorem succeedsAt_cons_zero (fr : Frame) (frs : List Frame) (r : Response) (rs : List Response) :
    SucceedsAt (fr :: frs) (r :: rs) 0 ↔ IsSetFreq fr ∧ r.status = .ok := by
  simp [SucceedsAt]

theorem succeedsAt_cons_succ (fr : Frame) (frs : List Frame) (r : Response) (rs : List Response) (n : Nat) :
    SucceedsAt (fr :: frs) (r :: rs) (n + 1) ↔ SucceedsAt frs rs n := by
  simp [SucceedsAt]

theorem not_succeedsAt_nil (rs : List Response) (n : Nat) : ¬ SucceedsAt [] rs n := by
  simp [SucceedsAt]

/-- The first SET_FREQ that succeeds is the first frame, or stands among the rest. -/
theorem exists_succeedsAt_cons (fr : Frame) (frs : List Frame) (r : Response) (rs : List Response) :
    (∃ n, SucceedsAt (fr :: frs) (r :: rs) n) ↔ (IsSetFreq fr ∧ r.status = .ok) ∨ ∃ n, SucceedsAt frs rs n := by
  rw [← Nat.or_exists_add_one]
  simp only [succeedsAt_cons_zero, succeedsAt_cons_succ]

/-- The same for one that no CFG_REF follows. -/
theorem exists_succeedsAt_noCfgRefAfter_cons (fr : Frame) (frs : List Frame) (r : Response) (rs : List Response) :
    (∃ n, SucceedsAt (fr :: frs) (r :: rs) n ∧ NoCfgRefAfter (fr :: frs) n) ↔
      ((IsSetFreq fr ∧ r.status = .ok) ∧ ∀ later ∈ frs, ¬ IsCfgRef later) ∨
        ∃ n, SucceedsAt frs rs n ∧ NoCfgRefAfter frs n := by
  rw [← Nat.or_exists_add_one]
  simp only [succeedsAt_cons_zero, succeedsAt_cons_succ, noCfgRefAfter_cons_zero, noCfgRefAfter_cons_succ]

/-! What one frame does to the session and to `last_freq`. -/

theorem not_isCfgRef_of_isSetFreq {fr : Frame} (setFreq : IsSetFreq fr) : ¬ IsCfgRef fr := by
  unfold IsSetFreq at setFreq
  simp [IsCfgRef, setFreq]

theorem performFrame_unconfigured_iff {fr : Frame} {s t : State} (performed : performFrame fr s = .next t) :
    t.sess = .unconfigured ↔ s.sess = .unconfigured ∧ ¬ IsCfgRef fr := by
  obtain ⟨toIdle, toLocked, failed, -, other⟩ := sessionTransitions fr s t performed
  by_cases cfgRef : IsCfgRef fr
  · simp [toIdle cfgRef, cfgRef]
  by_cases setFreq : IsSetFreq fr
  · by_cases ok : t.rspStatus = .ok
    · obtain ⟨configured, locked⟩ := toLocked setFreq ok
      simp [configured, locked]
    · simp [failed setFreq ok, cfgRef]
  · simp [other cfgRef setFreq, cfgRef]

theorem performFrame_locked_iff {fr : Frame} {s t : State} (performed : performFrame fr s = .next t) :
    t.sess = .locked ↔ (IsSetFreq fr ∧ t.rspStatus = .ok) ∨ (s.sess = .locked ∧ ¬ IsCfgRef fr) := by
  obtain ⟨toIdle, toLocked, failed, -, other⟩ := sessionTransitions fr s t performed
  by_cases setFreq : IsSetFreq fr
  · by_cases ok : t.rspStatus = .ok
    · simp [toLocked setFreq ok, setFreq, ok]
    · simp [failed setFreq ok, ok, not_isCfgRef_of_isSetFreq setFreq]
  by_cases cfgRef : IsCfgRef fr
  · simp [toIdle cfgRef, cfgRef, setFreq]
  · simp [other cfgRef setFreq, cfgRef, setFreq]

theorem performFrame_lastFreq_ne_zero_iff {fr : Frame} {s t : State} (performed : performFrame fr s = .next t) :
    t.lastFreq ≠ 0 ↔ (IsSetFreq fr ∧ t.rspStatus = .ok) ∨ s.lastFreq ≠ 0 := by
  by_cases succeeds : IsSetFreq fr ∧ t.rspStatus = .ok
  · rw [performFrame_of_isSetFreq succeeds.1] at performed
    obtain ⟨p, planned, rfl⟩ := lockPlan_of_status_ok performed succeeds.2
    have legal : LegalTarget fr.a.toNat := (inRange_iff _).mp (plan_ok planned).1
    exact iff_of_true legal.ne_zero (.inl succeeds)
  · rw [(performFrame_outputs performed succeeds).1, or_iff_right succeeds]

/-! The same along a run, from any state. -/

theorem runFrames_unconfigured_iff {frs : List Frame} {s t : State} {rs : List Response}
    (ran : runFrames frs s = .next (t, rs)) :
    t.sess = .unconfigured ↔ s.sess = .unconfigured ∧ ∀ fr ∈ frs, ¬ IsCfgRef fr := by
  induction frs generalizing s rs with
  | nil => cases ran; simp
  | cons fr frs ih =>
    obtain ⟨u, rest, performs, runs, rfl⟩ := runFrames_cons_next ran
    rw [ih runs, performFrame_unconfigured_iff performs, List.forall_mem_cons, and_assoc]

theorem runFrames_locked_iff {frs : List Frame} {s t : State} {rs : List Response}
    (ran : runFrames frs s = .next (t, rs)) :
    t.sess = .locked ↔
      (∃ n, SucceedsAt frs rs n ∧ NoCfgRefAfter frs n) ∨ (s.sess = .locked ∧ ∀ fr ∈ frs, ¬ IsCfgRef fr) := by
  induction frs generalizing s rs with
  | nil => cases ran; simp [not_succeedsAt_nil]
  | cons fr frs ih =>
    obtain ⟨u, rest, performs, runs, rfl⟩ := runFrames_cons_next ran
    rw [ih runs, performFrame_locked_iff performs, exists_succeedsAt_noCfgRefAfter_cons, List.forall_mem_cons,
      response_status, or_and_right, and_assoc (a := s.sess = .locked), or_left_comm, or_assoc]

theorem runFrames_lastFreq_ne_zero_iff {frs : List Frame} {s t : State} {rs : List Response}
    (ran : runFrames frs s = .next (t, rs)) : t.lastFreq ≠ 0 ↔ (∃ n, SucceedsAt frs rs n) ∨ s.lastFreq ≠ 0 := by
  induction frs generalizing s rs with
  | nil => cases ran; simp [not_succeedsAt_nil]
  | cons fr frs ih =>
    obtain ⟨u, rest, performs, runs, rfl⟩ := runFrames_cons_next ran
    rw [ih runs, performFrame_lastFreq_ne_zero_iff performs, exists_succeedsAt_cons, response_status,
      or_left_comm, or_assoc]

/-- Settles O36: after reset the session is UNCONFIGURED and `last_freq` is 0, so the run alone decides. -/
theorem sessionRecordsTheHistory : Obligations.SessionRecordsTheHistory := by
  intro frs t rs ran
  have unconfigured := runFrames_unconfigured_iff ran
  have locked := runFrames_locked_iff ran
  have target := runFrames_lastFreq_ne_zero_iff ran
  simp only [reset_sess, true_and, reduceCtorEq, false_and, or_false] at unconfigured locked
  simp only [reset_lastFreq, ne_eq, not_true_eq_false, or_false] at target
  exact ⟨unconfigured, locked, target⟩

/-! A nonzero reference comes before the first word and the first lock. -/

/-- Something was emitted, or is locked, or can be, since the reference is not 0. -/
def HasReference (s : State) : Prop := s.refHz ≠ 0 ∨ s.bus ≠ [] ∨ s.sess = .locked

/-- A CFG_REF with a nonzero reference frequency. -/
def SetsReference (fr : Frame) : Prop := IsCfgRef fr ∧ fr.a.extractLsb' 0 32 ≠ 0

theorem hasReference_congr {s t : State} (refHz : t.refHz = s.refHz) (bus : t.bus = s.bus) (sess : t.sess = s.sess) :
    HasReference t ↔ HasReference s := by
  rw [HasReference, HasReference, refHz, bus, sess]

/-- A frame gains the reference by such a CFG_REF alone: a SET_FREQ that succeeds finds it there. -/
theorem performFrame_hasReference {fr : Frame} {s t : State} (performed : performFrame fr s = .next t)
    (reference : HasReference t) : HasReference s ∨ SetsReference fr := by
  by_cases cfgRef : IsCfgRef fr
  · rw [performFrame_of_isCfgRef cfgRef] at performed
    obtain rfl := Host.Outcome.next.inj performed
    rcases reference with nonzero | emitted | locked
    · exact .inr ⟨cfgRef, nonzero⟩
    · exact .inl (.inr (.inl emitted))
    · cases locked
  · by_cases succeeds : IsSetFreq fr ∧ t.rspStatus = .ok
    · rw [performFrame_of_isSetFreq succeeds.1] at performed
      obtain ⟨p, planned, -⟩ := lockPlan_of_status_ok performed succeeds.2
      obtain ⟨-, config, -⟩ := plan_ok planned
      exact .inl (.inl ((configured_iff s).mp config).2)
    · obtain ⟨-, -, bus⟩ := performFrame_outputs performed succeeds
      obtain ⟨-, -, failed, -, other⟩ := sessionTransitions fr s t performed
      have sess : t.sess = s.sess := by
        by_cases setFreq : IsSetFreq fr
        · exact failed setFreq fun ok => succeeds ⟨setFreq, ok⟩
        · exact other cfgRef setFreq
      exact .inl ((hasReference_congr (performFrame_reference performed cfgRef).1 bus sess).mp reference)

theorem runFrames_hasReference {frs : List Frame} {s t : State} {rs : List Response}
    (ran : runFrames frs s = .next (t, rs)) (reference : HasReference t) :
    HasReference s ∨ ∃ fr ∈ frs, SetsReference fr := by
  induction frs generalizing s rs with
  | nil => cases ran; exact .inl reference
  | cons fr frs ih =>
    obtain ⟨u, rest, performs, runs, -⟩ := runFrames_cons_next ran
    rw [List.exists_mem_cons_iff, ← or_assoc]
    exact (ih runs).imp_left (performFrame_hasReference performs)

/-- Settles O37: after reset there is no reference, nothing is emitted and nothing locked. -/
theorem nothingIsEmittedBeforeAReference : Obligations.NothingIsEmittedBeforeAReference := by
  intro frs t rs ran done
  have fresh : ¬ HasReference State.reset := by simp [HasReference]
  exact (runFrames_hasReference ran (.inr done)).resolve_left fresh

end Sys2Proof.Machine
end

section
/-! PROOF. The planner's claims (40_planner.md R108, R113 to R115, R118, R119, R121): the legality of the VCO frequency, the
carry, the ranges and widths, and how near the plan's frequency is to the target. -/

namespace Sys2Proof.Machine

/-- Settles O39: the check is the one of `plan`, and below the first threshold a divider is selected. -/
theorem vcoIsLegalForEveryAcceptedTarget : Obligations.VcoIsLegalForEveryAcceptedTarget := by
  intro f legal
  have range : inRange f = true := (inRange_iff f).mpr legal
  obtain ⟨low, high⟩ := (vcoLegal_iff _).mp (vcoLegal_divSel f range)
  refine ⟨low, high, fun below => vco_lt_of_code_ne_zero fun undivided => ?_, fun sp s session reference =>
    ⟨_, plan_of_configured sp range ((configured_iff s).mpr ⟨session, reference⟩)⟩⟩
  rw [divSel_fst, undivided] at low
  omega

theorem carry_of_lt (nint0 : Nat) {nfrac0 modulus : Nat} (below : nfrac0 < modulus) :
    carry nint0 nfrac0 modulus = (nint0, nfrac0) := by
  rw [carry, if_neg (by omega)]

theorem carry_self (nint0 : Nat) {modulus : Nat} (positive : 0 < modulus) :
    carry nint0 modulus modulus = (nint0 + 1, 0) := by
  rw [carry, if_pos (le_refl _), Nat.div_self positive, Nat.mod_self]

/-- Settles O41: the fraction is at most the modulus, so the carry is one of two. -/
theorem carryNormalisesTheFraction : Obligations.CarryNormalisesTheFraction := by
  intro nint0 rem num modulus proper positive nfrac0
  refine ⟨fracConv_le modulus proper, fun whole => ?_, carry_of_lt nint0, (carry_spec nint0 nfrac0 positive).1⟩
  rw [whole, carry_self nint0 positive]

/-- Settles O44: the divider is the power of its code, and the checks and the carry keep the ranges. -/
theorem planFitsItsFields : Obligations.PlanFitsItsFields := by
  intro f sp s p planned
  obtain ⟨range, -, rfl⟩ := plan_ok planned
  obtain ⟨low, high⟩ := (vcoLegal_iff _).mp (vcoLegal_divSel f range)
  obtain ⟨least, greatest⟩ := acceptedPlan_modulus_bounds f sp s
  exact ⟨divSel_fst f, divSel_code_le f, rfl, low, high, acceptedPlan_nfrac_lt f sp s, least, greatest⟩

/-! The two parts of f_PFD in a configured state. -/

theorem pfdNum_pos_of_plan {f sp : Nat} {s : State} {p : Plan} (planned : plan f sp s = .ok p) : 0 < pfdNum s := by
  have notFalse : ¬ configured s = false := by simp [(plan_ok planned).2.1]
  rw [configured_eq_false_iff, not_or] at notFalse
  exact Nat.pos_of_ne_zero notFalse.2

theorem pfdDen_pos {s : State} (counter : RCountPositive s) : 0 < pfdDen s :=
  Nat.mul_pos (Nat.pos_of_ne_zero (BitVec.toNat_ne_iff_ne.mpr counter)) (by omega)

theorem pfdDen_le (s : State) : pfdDen s ≤ 2046 := by
  have counter : s.rCnt.toNat ≤ 1023 := Nat.le_of_lt_succ s.rCnt.isLt
  have halved : 1 + s.div2.toNat ≤ 2 := by
    have := s.div2.toNat_lt
    omega
  exact Nat.mul_le_mul counter halved

/-- A whole number of units goes through the rounding unchanged. -/
theorem rhu_mul_add (q r : Nat) {d : Nat} (positive : 0 < d) : rhu (q * d + r) d = q + rhu r d := by
  have parts : 2 * (q * d + r) + d = 2 * r + d + 2 * d * q := by ring
  rw [rhu, rhu, parts, Nat.add_mul_div_left _ _ (by omega), Nat.add_comm]

/-- Integer and fraction of a plan together are one rounding: of the exact ratio vco / f_PFD, counted in steps of the
modulus (R110, R113, R114). -/
theorem plan_steps {f sp : Nat} {s : State} {p : Plan} (planned : plan f sp s = .ok p) :
    p.nint * p.modulus + p.nfrac = rhu (p.vco * pfdDen s * p.modulus) (pfdNum s) := by
  have positive := pfdNum_pos_of_plan planned
  obtain ⟨-, -, rfl⟩ := plan_ok planned
  have steps := acceptedPlan_steps f sp s
  have vco : (acceptedPlan f sp s).vco = f * (divSel f).1 := rfl
  rw [vco]
  dsimp only at steps
  generalize f * (divSel f).1 * pfdDen s = t at steps ⊢
  generalize (acceptedPlan f sp s).modulus = m at steps ⊢
  have split : t * m = t / pfdNum s * m * pfdNum s + t % pfdNum s * m := by
    conv_lhs => rw [← Nat.div_add_mod t (pfdNum s)]
    ring
  rw [steps, split, rhu_mul_add _ _ positive]

/-! Rounding and reconstruction in exact rational arithmetic (R119). -/

/-- Rounding moves a value by half a unit at most. -/
theorem abs_rhu_sub_le (n : Nat) {d : Nat} (positive : 0 < d) : |(rhu n d : ℚ) - n / d| ≤ 1 / 2 := by
  obtain ⟨low, high⟩ := rhu_bounds n d positive
  have hd : (0 : ℚ) < d := by exact_mod_cast positive
  have low : (2 * d * rhu n d : ℚ) ≤ 2 * n + d := by exact_mod_cast low
  have high : (2 * n + d : ℚ) < 2 * d * (rhu n d + 1) := by exact_mod_cast high
  have cancel : (n / d : ℚ) * d = n := div_mul_cancel₀ _ hd.ne'
  rw [abs_le]
  constructor <;> nlinarith only [low, high, cancel, hd]

/-- The frequency of a plan is the number of its steps, each of f_PFD / (modulus * divider). -/
theorem reconstruct_eq (fpfd : ℚ) {p : Plan} (modulus : p.modulus ≠ 0) :
    reconstruct fpfd p = fpfd / (p.modulus * p.dv) * (p.nint * p.modulus + p.nfrac : ℕ) := by
  have hm : (p.modulus : ℚ) ≠ 0 := by exact_mod_cast modulus
  rw [reconstruct]
  push_cast
  field_simp

/-- The target is the same number of steps before rounding. -/
theorem target_eq {f sp : Nat} {s : State} {p : Plan} (counter : RCountPositive s) (planned : plan f sp s = .ok p) :
    (f : ℚ) = pfdHz s / (p.modulus * p.dv) * ((p.vco * pfdDen s * p.modulus : ℕ) / (pfdNum s : ℚ)) := by
  obtain ⟨dv, -, vco, -, -, -, modulus, -⟩ := planFitsItsFields f sp s p planned
  have hn : (pfdNum s : ℚ) ≠ 0 := by exact_mod_cast (pfdNum_pos_of_plan planned).ne'
  have hden : (pfdDen s : ℚ) ≠ 0 := by exact_mod_cast (pfdDen_pos counter).ne'
  have hm : (p.modulus : ℚ) ≠ 0 := by exact_mod_cast (Nat.one_le_iff_ne_zero.mp modulus)
  have hdv : (p.dv : ℚ) ≠ 0 := by rw [dv]; positivity
  rw [vco, pfdHz]
  push_cast
  field_simp

/-- Settles O45: the plan rounds the number of steps, each of which is f_PFD / (modulus * divider). -/
theorem reconstructionStaysWithinTheBound : Obligations.ReconstructionStaysWithinTheBound := by
  intro f sp s p counter planned
  obtain ⟨-, -, -, -, -, -, modulus, -⟩ := planFitsItsFields f sp s p planned
  have stepSize : 0 ≤ pfdHz s / (p.modulus * p.dv) := by rw [pfdHz]; positivity
  rw [reconstruct_eq _ (Nat.one_le_iff_ne_zero.mp modulus), target_eq counter planned, plan_steps planned, ← mul_sub,
    abs_mul, abs_of_nonneg stepSize]
  calc pfdHz s / (p.modulus * p.dv) * |(rhu _ _ : ℚ) - _ / _|
    _ ≤ pfdHz s / (p.modulus * p.dv) * (1 / 2) :=
      mul_le_mul_of_nonneg_left (abs_rhu_sub_le _ (pfdNum_pos_of_plan planned)) stepSize
    _ = pfdHz s / (2 * p.modulus * p.dv) := by rw [div_mul_div_comm]; ring

/-- Settles O46: on the grid the number of steps is a multiple of the modulus, so the fraction is 0 and the rounding
changes nothing. -/
theorem reconstructionIsExactOnTheGrid : Obligations.ReconstructionIsExactOnTheGrid := by
  rintro f sp s p counter planned ⟨k, grid⟩
  obtain ⟨dv, -, vco, -, -, fraction, modulus, -⟩ := planFitsItsFields f sp s p planned
  have num := pfdNum_pos_of_plan planned
  have hn : (pfdNum s : ℚ) ≠ 0 := by exact_mod_cast num.ne'
  have hden : (pfdDen s : ℚ) ≠ 0 := by exact_mod_cast (pfdDen_pos counter).ne'
  have multiple : p.vco * pfdDen s = k * pfdNum s := by
    have : (p.vco * pfdDen s : ℚ) = k * pfdNum s := by rw [grid, pfdHz]; field_simp
    exact_mod_cast this
  have steps : p.nint * p.modulus + p.nfrac = k * p.modulus := by
    have whole : p.vco * pfdDen s * p.modulus = k * p.modulus * pfdNum s + 0 := by rw [multiple]; ring
    rw [plan_steps planned, whole, rhu_mul_add _ _ num, rhu_zero_left _ num, Nat.add_zero]
  have integer : p.nfrac = 0 := by
    have remainder := congrArg (· % p.modulus) steps
    simpa [Nat.mul_add_mod', Nat.mod_eq_of_lt fraction] using remainder
  refine ⟨(planFlagsFollowTheCarriedValues f sp s p planned).2.mpr integer, ?_⟩
  have exactSteps : ((p.vco * pfdDen s * p.modulus : ℕ) : ℚ) / pfdNum s = (p.nint * p.modulus + p.nfrac : ℕ) := by
    rw [steps, multiple, div_eq_iff hn]
    push_cast
    ring
  rw [reconstruct_eq _ (Nat.one_le_iff_ne_zero.mp modulus), target_eq counter planned, exactSteps]

/-- The carry adds 1 to the integer at most (R115). -/
theorem carry_fst_le (nint0 : Nat) {rem num modulus : Nat} (proper : rem < num) (positive : 0 < modulus) :
    (carry nint0 (fracConv rem modulus num) modulus).1 ≤ nint0 + 1 := by
  obtain ⟨most, whole, below, -⟩ := carryNormalisesTheFraction nint0 rem num modulus proper positive
  rcases most.lt_or_eq with less | equal
  · rw [below less]
    exact Nat.le_succ nint0
  · rw [whole equal]

theorem plan_nint_le {f sp : Nat} {s : State} {p : Plan} (planned : plan f sp s = .ok p) :
    p.nint ≤ (feedbackInt p.vco (pfdNum s) (pfdDen s)).1 + 1 := by
  have num := pfdNum_pos_of_plan planned
  obtain ⟨-, -, rfl⟩ := plan_ok planned
  exact carry_fst_le _ (Nat.mod_lt _ num) (acceptedPlan_modulus_bounds f sp s).1

theorem effectiveSpacing_lt (sp : BitVec 64) : effectiveSpacing sp.toNat < 2 ^ 64 := by
  unfold effectiveSpacing
  split_ifs
  · decide
  · exact sp.isLt

/-- Settles O47: each value is a product or a quotient of values that are bounded already. -/
theorem intermediateValuesHaveBoundedWidth : Obligations.IntermediateValuesHaveBoundedWidth := by
  intro f sp s p counter planned
  obtain ⟨-, -, -, -, vcoMax, -, -, modMax⟩ := planFitsItsFields f.toNat sp.toNat s p planned
  have num := pfdNum_lt s
  have denPos := pfdDen_pos counter
  have denMax := pfdDen_le s
  have product : p.vco * pfdDen s ≤ 4400000000 * 2046 := Nat.mul_le_mul vcoMax denMax
  have integer : (feedbackInt p.vco (pfdNum s) (pfdDen s)).1 ≤ p.vco * pfdDen s := Nat.div_le_self _ _
  have carried := plan_nint_le planned
  have remainder : (feedbackInt p.vco (pfdNum s) (pfdDen s)).2 < pfdNum s :=
    Nat.mod_lt _ (pfdNum_pos_of_plan planned)
  have fraction : (feedbackInt p.vco (pfdNum s) (pfdDen s)).2 * p.modulus ≤ 2 ^ 33 * 4095 :=
    Nat.mul_le_mul (remainder.trans num).le modMax
  have grid : pfdDen s * effectiveSpacing sp.toNat ≤ 2046 * 2 ^ 64 :=
    Nat.mul_le_mul denMax (effectiveSpacing_lt sp).le
  omega

end Sys2Proof.Machine
end

section
/-! PROOF. The wire view of the bus stream (20_memory.md R55, R56; 60_exceptions.md R236). -/

namespace Sys2Proof.Machine

/-- The four bytes of a word, the most significant first, are its value. -/
theorem wordBytes_value (w : Word) :
    w.toNat = (((w.extractLsb' 24 8).toNat * 256 + (w.extractLsb' 16 8).toNat) * 256 + (w.extractLsb' 8 8).toNat) * 256 +
      (w.extractLsb' 0 8).toNat := by
  simp only [toNat_field]
  omega

theorem eventBytes_transferWord (w : Word) : eventBytes (transferWord w) = wordBytes w := rfl

theorem settleTotal_transferWord (w : Word) : settleTotal (transferWord w) = 5 := rfl

theorem transferAll_cons (w : Word) (ws : List Word) : transferAll (w :: ws) = transferWord w ++ transferAll ws := rfl

theorem eventBytes_transferAll (ws : List Word) : eventBytes (transferAll ws) = ws.flatMap wordBytes := by
  induction ws with
  | nil => rfl
  | cons w ws ih => rw [transferAll_cons, eventBytes_append, eventBytes_transferWord, ih, List.flatMap_cons]

theorem settleTotal_transferAll (ws : List Word) : settleTotal (transferAll ws) = 5 * ws.length := by
  induction ws with
  | nil => rfl
  | cons w ws ih =>
    rw [transferAll_cons, settleTotal_append, settleTotal_transferWord, ih, List.length_cons]
    ring

/-- The bits of one byte of a word are the word's own, from the byte's highest place down. -/
theorem byteBits_extractLsb' (w : Word) (lo : Nat) :
    byteBits (w.extractLsb' lo 8) = (List.range 8).map fun k => w.getLsbD (lo + (7 - k)) := by
  simp [byteBits, List.range_succ]

/-- The whole word goes out from bit 31 down to bit 0. -/
theorem wordBits_eq (w : Word) : wordBits w = (List.range 32).map fun k => w.getLsbD (31 - k) := by
  simp only [wordBits, wordBytes, List.flatMap_cons, List.flatMap_nil, byteBits_extractLsb']
  rfl

/-- Settles O54: word by word for the bytes and the settling time, place by place for the bits. -/
theorem wireCarriesTheWordsInOrder : Obligations.WireCarriesTheWordsInOrder := by
  refine ⟨fun w => ⟨_, _, _, _, rfl, wordBytes_value w⟩,
    fun ws => ⟨eventBytes_transferAll ws, settleTotal_transferAll ws⟩, fun w k => ?_⟩
  rw [wordBits_eq, List.getElem?_map, List.getElem?_range k.isLt, Option.map_some]

end Sys2Proof.Machine
end

section
/-! PROOF. The assembler's lines (30_encoding.md R80 to R82). -/

namespace Sys2Proof.Machine

/-- The seven commands of the opcode map (30_encoding.md R72). -/
def IsHostCommand : Instr → Prop
  | .cfgRef .. | .setFreq .. | .setPower .. | .setOutEn .. | .setCp .. | .getFreq | .getPfd => True
  | _ => False

/-- One of the seven commands is written with a header of 1 to 7, so as a frame that is not ill-formed. -/
theorem encode_of_isHostCommand {i : Instr} (command : IsHostCommand i) :
    ∃ fr, encode i = .command fr ∧ ¬ IllFormed fr := by
  cases i
  case cfgRef | setFreq | setPower | setOutEn | setCp | getFreq | getPfd => exact ⟨_, rfl, by simp [IllFormed]⟩
  all_goals exact command.elim

theorem assembleCfgRef_isHostCommand {ops : List (List Char)} {i : Instr} (ok : assembleCfgRef ops = .ok i) :
    IsHostCommand i := by
  unfold assembleCfgRef at ok
  split at ok
  · split at ok <;> cases ok
    trivial
  · cases ok

theorem assembleSetFreq_isHostCommand {ops : List (List Char)} {i : Instr} (ok : assembleSetFreq ops = .ok i) :
    IsHostCommand i := by
  unfold assembleSetFreq at ok
  split at ok
  · split at ok <;> cases ok
    trivial
  · split at ok <;> cases ok
    trivial
  · cases ok

/-- A command without operands is the one its mnemonic names. -/
theorem assembleBare_isHostCommand {ops : List (List Char)} {i j : Instr} (ok : assembleBare ops i = .ok j)
    (command : IsHostCommand i) : IsHostCommand j := by
  unfold assembleBare at ok
  split at ok
  · cases ok
    exact command
  · cases ok

/-- Every mnemonic names one of the seven commands, whatever its operands are. -/
theorem assembleCommand_isHostCommand {mnemonic : List Char} {ops : List (List Char)} {i : Instr}
    (ok : assembleCommand mnemonic ops = .ok i) : IsHostCommand i := by
  unfold assembleCommand at ok
  split_ifs at ok with cfgRef setFreq setPower setOutEn setCp getFreq getPfd outOn outOff
  · exact assembleCfgRef_isHostCommand ok
  · exact assembleSetFreq_isHostCommand ok
  · split at ok <;> cases ok
    trivial
  · split at ok <;> cases ok <;> trivial
  · split at ok <;> cases ok
    trivial
  all_goals exact assembleBare_isHostCommand ok trivial

theorem assembleLine_isHostCommand {line : List Char} {i : Instr} (ok : assembleLine line = .ok (some i)) :
    IsHostCommand i := by
  unfold assembleLine at ok
  split_ifs at ok with empty
  · cases ok
  split at ok
  · next command =>
    cases ok
    exact assembleCommand_isHostCommand command
  · cases ok

/-- Settles O55: the frame of a command decodes to it, since decoding reads back what is written. -/
theorem assembledLinesAreCommands : Obligations.AssembledLinesAreCommands := by
  intro line i ok
  obtain ⟨fr, written, wellFormed⟩ := encode_of_isHostCommand (assembleLine_isHostCommand ok)
  exact ⟨fr, written, wellFormed, decode_of_encode written⟩

/-- Settles O56: the six lines with their instructions and frames, and the four others, evaluated. -/
theorem programLinesAssembleToTheirFrames : Obligations.ProgramLinesAssembleToTheirFrames := by
  refine ⟨?_, by decide, by decide, by decide, by decide⟩
  simp only [List.forall_mem_cons]
  exact ⟨⟨.cfgRef 25000000 2 true false, _, by decide, rfl, by decide⟩,
    ⟨.setFreq 433920000 10000, _, by decide, rfl, by decide⟩,
    ⟨.setFreq 4400000001 0, _, by decide, rfl, by decide⟩,
    ⟨.setCp (-5), _, by decide, rfl, by decide⟩,
    ⟨.setOutEn true, _, by decide, rfl, by decide⟩,
    ⟨.getPfd, _, by decide, rfl, by decide⟩, List.forall_mem_nil _⟩

end Sys2Proof.Machine
end
